-- ==== Sys2Proof/Word.lean ====
section
/-! DEFINITION. The word types of the Timed-Capsule core block (20_memory R49, 30_encoding R60, R62). -/

namespace Sys2Proof

/-- A memory word: every memory of the block is an array of 16-bit words (20_memory R49). -/
abbrev Word := BitVec 16

/-- A label word, the 64-bit name of a step, command or µop (30_encoding R60). -/
abbrev Label := BitVec 64

/-- A 48-bit timestamp payload of six BCD bytes (30_encoding R62). -/
abbrev Stamp := BitVec 48

/-- A 7-bit glyph: bit s energises segment s, A = 0 to G = 6 (40_display R72). -/
abbrev Glyph := BitVec 7

end Sys2Proof
end

