-- ==== Sys2Proof/Config.lean ====
section
/-! DEFINITION. The implementation parameters of 00_scope R7, and the free values: what the spec leaves open, as
opaque constants that nothing in Lean can evaluate. -/

namespace Sys2Proof

/-- The two deployment configurations, parameter `CONFIG` (00_scope R6). -/
inductive Deployment where
  /-- `CONFIG = 0`, COUNTDOWN_UNLOCK. -/
  | countdownUnlock
  /-- `CONFIG = 1`, ELAPSED_SINCE_LAUNCH. -/
  | elapsedSinceLaunch
  deriving DecidableEq, Repr

/-- Where one display segment lives: `SEG_MAP(p, s) = (word, bit)` (40_display R75). The wiring is a parameter, so
neither number is bounded here: the layout self-check bounds them (R77). -/
structure SegLoc where
  word : Nat
  bit : Nat
  deriving DecidableEq, Repr

/-- The segment map, one location per digit position (0..5) and segment (0..6) (40_display R75). -/
abbrev SegMap := Vector (Vector SegLoc 7) 6

namespace Config

/-- `DISP_WORDS`, the 16-bit words of one display buffer (00_scope R7). -/
abbrev dispWords : Nat := 3

/-- `DUR_WORDS`, the 16-bit words of the durable memory (00_scope R7). -/
abbrev durWords : Nat := 32

/-- `SEC_PER_DAY` (00_scope R7). -/
abbrev secPerDay : Nat := 86400

/-- `LONG_NOW_DAYS` (00_scope R7). -/
abbrev longNowDays : Nat := 1000000

/-- `CENTURY_DAYS` (00_scope R7). -/
abbrev centuryDays : Nat := 36525

/-- `MID_DAYS` (00_scope R7). -/
abbrev midDays : Nat := 18263

/-- `MID_YEAR` (00_scope R7). -/
abbrev midYear : Nat := 50

/-- `YEARS_CAP` (00_scope R7, 90_conflicts C1). -/
abbrev yearsCap : Nat := 100

/-- `ACTIVE_LEVEL`, the pin level of a pressed input: level 0 (00_scope R7). -/
abbrev activeLevel : Bool := false

/-- `TERMINAL_DIGIT` (00_scope R7). -/
abbrev terminalDigit : Nat := 9

/-- The default `SEG_MAP`: `word(p, s) = p div 2`, `bit(p, s) = 8 * (p mod 2) + s` (40_display R75). -/
def defaultSegMap : SegMap :=
  Vector.ofFn fun p => Vector.ofFn fun s => ⟨p.val / 2, 8 * (p.val % 2) + s.val⟩

/-- FREE VALUE. What word `w` of display buffer `b` holds after the `n`-th power-up: 10_state R33 leaves it
unspecified. DESIGN CHOICE, log 6, safe: nothing constrains it. -/
opaque powerUpDisplay (n b w : Nat) : Word

/-- FREE VALUE. What entry `v` of field `f`'s word cache holds after the `n`-th power-up: 10_state R34 leaves it
unspecified. DESIGN CHOICE, log 6, safe: nothing constrains it. -/
opaque powerUpCache (n f v : Nat) : Word

/-- FREE VALUE. What a read of the word cache of field `f` outside its table gives: the table has no such entry
(10_state R34) and no rule reads one in a run. DESIGN CHOICE, log 7, safe. -/
opaque cacheOutside (f v : Nat) : Word

end Config
end Sys2Proof
end

