-- ==== Sys2Proof/Syntax.lean ====
section
/-! DEFINITION. The labels of the block: one constructor of `Instr` per row of spec/opcode_table.json (30_encoding
R67), and the µops of the queue UQ (10_state R38). -/

namespace Sys2Proof

/-- The three inputs: 0 BTN_ADV, 1 BTN_INC, 2 TRIG (10_state R24). Index 3 is reserved (30_encoding R63). -/
inductive Input where
  /-- BTN_ADV, the cursor-advance button. -/
  | adv
  /-- BTN_INC, the digit-increment button. -/
  | inc
  /-- TRIG, the trigger switch. -/
  | trig
  deriving DecidableEq, Repr

/-- A label: every step the block or its environment can take, and every µop (30_encoding R60 to R67). -/
inductive Instr where
  /-- BOOT(P), host command (44_host R137). -/
  | boot (p : Stamp)
  /-- UNLOCK_DONE, host command (44_host R138). -/
  | unlockDone
  /-- COMMISSION(P), host command (44_host R139). -/
  | commission (p : Stamp)
  /-- SET_TS_LATCH(P), host command (44_host R140). -/
  | setTsLatch (p : Stamp)
  /-- CLEAR_STATUS, host command (44_host R141). -/
  | clearStatus
  /-- TICK_EDGE, environment event (60_exceptions R144). -/
  | tickEdge
  /-- PIN_CHANGE(i, lvl), environment event (60_exceptions R145). -/
  | pinChange (i : Input) (lvl : Bool)
  /-- POWER_LOSS, environment event (60_exceptions R146). -/
  | powerLoss
  /-- TICK_DISPATCH, internal step (41_engine R96). -/
  | tickDispatch
  /-- INPUT_ENTRY, internal step (43_input R126). -/
  | inputEntry
  /-- SETTLE_DONE, internal step (43_input R127). -/
  | settleDone
  /-- UOP_STEP, internal step (42_durable R120). -/
  | uopStep
  /-- DWW(a, v), µop (42_durable R121). -/
  | dww (a : BitVec 8) (v : Word)
  /-- WPU, µop (42_durable R122). -/
  | wpu
  /-- WPL, µop (42_durable R123). -/
  | wpl
  /-- EMIT(e), µop (42_durable R124). -/
  | emit (e : BitVec 8)
  deriving DecidableEq, Repr

/-- An element of the µop queue UQ (10_state R38). -/
inductive Uop where
  | dww (a : BitVec 8) (v : Word)
  | wpu
  | wpl
  | emit (e : BitVec 8)
  deriving DecidableEq, Repr

/-- The label of a µop (30_encoding R65). -/
def Uop.toInstr : Uop → Instr
  | .dww a v => .dww a v
  | .wpu => .wpu
  | .wpl => .wpl
  | .emit e => .emit e

/-- The internal steps of the block's sequencer, CLASS 2 (30_encoding R64). -/
inductive InternalStep where
  | uopStep
  | settleDone
  | tickDispatch
  | inputEntry
  deriving DecidableEq, Repr

/-- The label of an internal step. -/
def InternalStep.toInstr : InternalStep → Instr
  | .uopStep => .uopStep
  | .settleDone => .settleDone
  | .tickDispatch => .tickDispatch
  | .inputEntry => .inputEntry

/-- The four label classes that are not reserved (30_encoding R60). -/
inductive LabelClass where
  | command
  | event
  | internal
  | uop
  deriving DecidableEq, Repr

/-- The class of each operation (30_encoding R67). -/
def Instr.labelClass : Instr → LabelClass
  | .boot _ => .command
  | .unlockDone => .command
  | .commission _ => .command
  | .setTsLatch _ => .command
  | .clearStatus => .command
  | .tickEdge => .event
  | .pinChange _ _ => .event
  | .powerLoss => .event
  | .tickDispatch => .internal
  | .inputEntry => .internal
  | .settleDone => .internal
  | .uopStep => .internal
  | .dww _ _ => .uop
  | .wpu => .uop
  | .wpl => .uop
  | .emit _ => .uop

end Sys2Proof
end

