-- ==== Sys2Proof/Machine/State.lean ====
section
/-! DEFINITION. The state of the block as plain data (10_state R14 to R44), the reasons a step can stop, and the
state after reset (R44, 70_reset_and_hazards R163). -/

namespace Sys2Proof.Machine

/-- ENG_STATE, 3 bits (10_state R14). Values 6 and 7 are never held, so the type has none (log 9). -/
inductive EngState where
  | idle
  | setting
  | counting
  | unlocking
  | terminal
  | error
  deriving DecidableEq, Repr

/-- MODE, one bit (10_state R15). -/
inductive CountMode where
  /-- 0, CountDown. -/
  | down
  /-- 1, CountUp. -/
  | up
  deriving DecidableEq, Repr

/-- PAGE, 2 bits, legal 0..2 (10_state R19, log 9). -/
inductive Page where
  /-- 0, HH:MM:SS from the primary buffer. -/
  | time
  /-- 1, the day count from the alternate buffer. -/
  | days
  /-- 2, display disabled. -/
  | blank
  deriving DecidableEq, Repr

/-- UNIT, 2 bits (10_state R21). -/
inductive TimeUnit where
  | seconds
  | hours
  | days
  | years
  deriving DecidableEq, Repr

/-- A display buffer: 0 primary, 1 alternate (10_state R32, R33). -/
inductive Buffer where
  | primary
  | alternate
  deriving DecidableEq, Repr

/-- BLINK, 2 bits: 0 none, 1 perSegment, 2 allSegments, 3 autoAlternate (10_state R32). -/
inductive BlinkMode where
  | none
  | perSegment
  | allSegments
  | autoAlternate
  deriving DecidableEq, Repr

/-- A two-digit field of the time page: 0 SEC, 1 MIN, 2 HR (40_display R76). -/
inductive Field where
  | sec
  | min
  | hr
  deriving DecidableEq, Repr

/-- Three bits, one per input, bit i for input i (10_state R24 to R29). -/
structure InputBits where
  adv : Bool
  inc : Bool
  trig : Bool
  deriving DecidableEq, Repr

/-- The parameters of 00_scope R7 that are OPEN. The spec makes them arguments of the model, fixed for the life of
a device (R6, R8); they stand in State as constants that no step writes. DESIGN CHOICE, log 2. -/
structure Params where
  config : Deployment
  segMap : SegMap
  deriving DecidableEq, Repr

/-- The setting registers UNIT, DIG[0..4] and CURSOR (10_state R21, R22, R23). -/
structure Setting where
  unit : TimeUnit
  dig : Vector (BitVec 4) 5
  /-- CURSOR, 3 bits, legal 0..5 (log 9). -/
  cursor : Fin 6
  deriving DecidableEq, Repr

/-- The display memory and the display control registers (10_state R32, R33). -/
structure Display where
  primary : Vector Word 3
  alternate : Vector Word 3
  bank : Buffer
  blink : BlinkMode
  lcdOn : Bool
  deriving DecidableEq, Repr

/-- The word cache WORDFOR[F][v] (10_state R34). -/
structure WordCache where
  sec : Vector Word 60
  min : Vector Word 60
  hr : Vector Word 24
  deriving DecidableEq, Repr

/-- A word of durable memory at a word address: the block addresses no byte (20_memory R49, log 15). -/
abbrev WordCell := Nat × Word

/-- The durable memory DUR (10_state R35): the words that differ from what an unlisted address reads as, by rising
address. The operations and the canonical form are in Machine/Ops.lean. -/
abbrev Memory := List WordCell

/-- What the world outside the sequencer does next: one element of the model's `offers` (log 1). -/
inductive Offer where
  /-- A label word of 30_encoding R67: a command, an environment event, or the name of the internal step taken. -/
  | label (w : Label)
  /-- The host's write of any word to the command port (44_host R136). -/
  | port (w : Label)
  deriving DecidableEq, Repr

/-- The whole state of the block, with the pin levels of the environment (10_state). -/
structure State where
  /-- CONFIG and SEG_MAP (R6, R7): constants. -/
  params : Params
  /-- ENG_STATE (R14). -/
  eng : EngState
  /-- MODE (R15). -/
  mode : CountMode
  /-- ERR_CODE (R16). -/
  errCode : BitVec 4
  /-- SEC (R17). -/
  sec : BitVec 6
  /-- MIN (R17). -/
  min : BitVec 6
  /-- HR (R17). -/
  hr : BitVec 5
  /-- DAYS (R18). -/
  days : BitVec 32
  /-- PAGE (R19). -/
  page : Page
  /-- CENT (R20). -/
  cent : BitVec 16
  /-- MIDF (R20). -/
  midf : Bool
  /-- UNIT, DIG and CURSOR (R21, R22, R23). -/
  setting : Setting
  /-- PIN (R24), owned by the input environment. -/
  pin : InputBits
  /-- EDGE (R25): false awaits the press, true the release. -/
  edge : InputBits
  /-- ARMED (R26). -/
  armed : InputBits
  /-- IFG (R27). -/
  ifg : InputBits
  /-- IE (R28). -/
  ie : InputBits
  /-- DEB_ACTIVE (R29). -/
  debActive : Bool
  /-- DEB_SET (R29). -/
  debSet : InputBits
  /-- TICK_IFG (R30). -/
  tickIfg : Bool
  /-- TICK_IE (R30). -/
  tickIe : Bool
  /-- TICK_LOST (R31). -/
  tickLost : Bool
  /-- CMD_REJECT (R31). -/
  cmdReject : Bool
  /-- REJECT_REASON (R31). -/
  rejectReason : BitVec 2
  /-- WP_FAULT (R31). -/
  wpFault : Bool
  /-- CACHE_VALID (R31). -/
  cacheValid : Bool
  /-- BANK, BLINK, LCD_ON and DISP (R32, R33). -/
  display : Display
  /-- WORDFOR (R34). -/
  cache : WordCache
  /-- DUR (R35). -/
  dur : Memory
  /-- WP (R36). -/
  wp : Bool
  /-- TS_LATCH (R37). -/
  tsLatch : Stamp
  /-- UQ (R38), head first. -/
  uq : List Uop
  /-- OUT (R39), oldest first. -/
  out : List (BitVec 8)
  /-- The model's own: what the environment and the host do next (log 1). -/
  offers : List Offer
  /-- The model's own: how many POWER_LOSS steps have been taken, the argument of the free power-up contents (log 6). -/
  powerUps : Nat
  deriving DecidableEq, Repr

/-- Why the machine stops with a fault. The block itself never faults (60_exceptions, opening text): these name
what is no step of the block at all. -/
inductive Fault where
  /-- An internal step was named at a boundary where 60_exceptions R147 does not enable it. Raised by the four
  internal steps. Safe: the block takes no such step (95_test_vectors section 3, "an illegal program"). Log 10. -/
  | stepNotEnabled
  /-- A PIN_CHANGE to the level the pin already has, which "is not a step" (60_exceptions R145). Raised by
  PIN_CHANGE. Safe. Log 10. -/
  | pinLevelUnchanged
  /-- A host command executed while 44_host R136 does not enable it. Raised by the five commands; `step` never
  raises it, since there the host waits. Safe. Log 10. -/
  | commandPortNotReady
  deriving DecidableEq, Repr

/-- Why an instruction has no meaning. -/
inductive Refusal where
  /-- The instruction is not modelled yet: an arm of `exec` only. Safe. -/
  | notModelled (mnemonic : String)
  /-- A reserved word of CLASS 1 to 15 offered as a step label: 30_encoding R68 has the decoder of labels refuse
  it. Raised by `step`. Safe. Log 11. -/
  | reservedLabel
  /-- A µop word offered as a step label: it "is never a step" (30_encoding R65). Raised by `step`. Safe. Log 11. -/
  | uopIsNoStep
  /-- A DWW whose address is not below DUR_WORDS: 20_memory R48 has a model refuse it. Raised by DWW and UOP_STEP.
  Safe. Log 12. -/
  | durableAddressOutside
  /-- An EMIT whose code is reserved: no rule enqueues it (30_encoding R68). Raised by EMIT and UOP_STEP. Safe.
  Log 12. -/
  | reservedEventCode
  deriving DecidableEq, Repr

/-- One outcome of a step of this machine. -/
abbrev Result := Host.Outcome State Fault Refusal

/-- The display after reset: control registers 0 (10_state R44); the memory words are unspecified there, and 0 here.
DESIGN CHOICE, log 4, unsafe. -/
def Display.reset : Display where
  primary := #v[0, 0, 0]
  alternate := #v[0, 0, 0]
  bank := .primary
  blink := .none
  lcdOn := false

/-- The word cache after reset: unspecified in 10_state R44, 0 here. DESIGN CHOICE, log 5, unsafe. -/
def WordCache.reset : WordCache where
  sec := Vector.replicate 60 0
  min := Vector.replicate 60 0
  hr := Vector.replicate 24 0

/-- The setting registers after reset: DAYS, all digits 0, cursor 1 (10_state R44). -/
def Setting.reset : Setting where
  unit := .days
  dig := #v[0, 0, 0, 0, 0]
  cursor := 1

/-- The block right after its first power-up, the manufacture state (70_reset_and_hazards R163, 10_state R44).
CONFIG, SEG_MAP (log 2), PIN (log 3), DISP (log 4) and WORDFOR (log 5) are values the model names: DESIGN CHOICE. -/
def State.reset : State where
  params := { config := .countdownUnlock, segMap := Config.defaultSegMap }
  eng := .idle
  mode := .down
  errCode := 0
  sec := 0
  min := 0
  hr := 0
  days := 0
  page := .time
  cent := 0
  midf := false
  setting := Setting.reset
  pin := ⟨true, true, true⟩
  edge := ⟨false, false, false⟩
  armed := ⟨true, true, true⟩
  ifg := ⟨false, false, false⟩
  ie := ⟨false, false, false⟩
  debActive := false
  debSet := ⟨false, false, false⟩
  tickIfg := false
  tickIe := false
  tickLost := false
  cmdReject := false
  rejectReason := 0
  wpFault := false
  cacheValid := false
  display := Display.reset
  cache := WordCache.reset
  dur := []
  wp := true
  tsLatch := 0
  uq := []
  out := []
  offers := []
  powerUps := 0

end Sys2Proof.Machine
end

