-- ==== Sys2Proof/WellFormed.lean ====
section
/-! DEFINITION. Which labels are well formed: the operand limits the spec states that the type of `Instr` does not
carry by itself. -/

namespace Sys2Proof

/-- A durable word address of a DWW is below DUR_WORDS (42_durable R121, 20_memory R48). -/
def durAddressOk (a : BitVec 8) : Bool := decide (a.toNat < Config.durWords)

/-- An event code is 1 (UNLOCK) or 2 (RTC_RESET); the others are reserved (30_encoding R65, R68). -/
def eventCodeOk (e : BitVec 8) : Bool := e == 1#8 || e == 2#8

/-- The operand checks of each label. Every operand not named here is legal at every value: the payloads are
stored or checked by the command itself (R62), and an `Input` has no fourth value. -/
def Instr.wellFormed : Instr → Bool
  | .boot _ => true
  | .unlockDone => true
  | .commission _ => true
  | .setTsLatch _ => true
  | .clearStatus => true
  | .tickEdge => true
  | .pinChange _ _ => true
  | .powerLoss => true
  | .tickDispatch => true
  | .inputEntry => true
  | .settleDone => true
  | .uopStep => true
  | .dww a _ => durAddressOk a
  | .wpu => true
  | .wpl => true
  | .emit e => eventCodeOk e

/-- A queued µop is well formed when its label is (10_state R38). -/
def Uop.wellFormed (u : Uop) : Bool := u.toInstr.wellFormed

end Sys2Proof
end

