-- ==== Sys2Proof/Machine/Ops.lean ====
section
/-! DEFINITION. The named operations over the durable memory, the durable records, the µop queue, the per-input
bits and the status flags (10_state, 20_memory, 42_durable R112 to R124, 44_host R136).

The block takes no exception: it has no trap vector, no saved context and no return (60_exceptions R150, R151). What
it has in their place are `reject` below, the absorbing states of Machine/Engine.lean (R105, R108), and interrupt
entry, which is the first step of a handler and saves nothing (R150). -/

namespace Sys2Proof.Machine

/-! ### Per-input bits -/

/-- Bit i of a group of three (10_state R24 to R29). -/
def InputBits.get (b : InputBits) : Input → Bool
  | .adv => b.adv
  | .inc => b.inc
  | .trig => b.trig

/-- Writes bit i of a group of three. -/
def InputBits.set (b : InputBits) (i : Input) (v : Bool) : InputBits :=
  match i with
  | .adv => { b with adv := v }
  | .inc => { b with inc := v }
  | .trig => { b with trig := v }

/-- Bitwise AND of two groups. -/
def InputBits.both (a b : InputBits) : InputBits := ⟨a.adv && b.adv, a.inc && b.inc, a.trig && b.trig⟩

/-- Some bit of the group is 1. -/
def InputBits.some (b : InputBits) : Bool := b.adv || b.inc || b.trig

/-- All three bits 0. -/
def InputBits.zero : InputBits := ⟨false, false, false⟩

/-- All three bits 1. -/
def InputBits.ones : InputBits := ⟨true, true, true⟩

/-! ### Durable memory -/

/-- What an unlisted durable word reads as: 0, the value of every word at manufacture (10_state R35). -/
def Memory.blank : Word := 0

/-- `DurRead(a)` (20_memory R48): no side effect. -/
def Memory.read : Memory → Nat → Word
  | [], _ => Memory.blank
  | (b, u) :: m, a => if a = b then u else Memory.read m a

/-- `DUR[a] <- v` (42_durable R121), keeping the canonical form. -/
def Memory.write : Memory → Nat → Word → Memory
  | [], a, v => if v = Memory.blank then [] else [(a, v)]
  | (b, u) :: m, a, v =>
    if a < b then (if v = Memory.blank then (b, u) :: m else (a, v) :: (b, u) :: m)
    else if a = b then (if v = Memory.blank then m else (a, v) :: m)
    else (b, u) :: Memory.write m a v

/-- The canonical form of a memory whose addresses are `lo` or more: addresses strictly rising and below DUR_WORDS,
no entry equal to what an unlisted address reads as. -/
def Memory.wfFrom : Nat → Memory → Bool
  | _, [] => true
  | lo, (b, u) :: m => decide (lo ≤ b) && decide (b < Config.durWords) && u != Memory.blank && Memory.wfFrom (b + 1) m

/-- The canonical form of the durable memory: equal memories are equal lists. -/
def Memory.wf (m : Memory) : Bool := Memory.wfFrom 0 m

/-! ### Durable records -/

/-- The five durable records (42_durable R112). -/
inductive Record where
  /-- CREC, the century record. -/
  | crec
  /-- LFLAG, the launch flag. -/
  | lflag
  /-- LTS, the launch timestamp. -/
  | lts
  /-- CFLAG, the commission flag. -/
  | cflag
  /-- CTS, the commission timestamp. -/
  | cts
  deriving DecidableEq, Repr

/-- The base address of a record, its active flag (42_durable R112). -/
def Record.base : Record → Nat
  | .crec => 0x00
  | .lflag => 0x05
  | .lts => 0x08
  | .cflag => 0x0F
  | .cts => 0x12

/-- The number n of value words of a record (42_durable R112). -/
def Record.size : Record → Nat
  | .crec => 2
  | .lflag => 1
  | .lts => 3
  | .cflag => 1
  | .cts => 3

/-- The address of value word k's primary copy, `b + 1 + k` (42_durable R112). -/
def Record.primaryAt (r : Record) (k : Nat) : Nat := r.base + 1 + k

/-- The address of value word k's backup copy, `b + 1 + n + k` (42_durable R112). -/
def Record.backupAt (r : Record) (k : Nat) : Nat := r.base + 1 + r.size + k

/-- The primary copy of a record. -/
def Memory.primaryOf (m : Memory) (r : Record) : List Word := (List.range r.size).map fun k => m.read (r.primaryAt k)

/-- The backup copy of a record. -/
def Memory.backupOf (m : Memory) (r : Record) : List Word := (List.range r.size).map fun k => m.read (r.backupAt k)

/-- The active flag of a record is set: nonzero (42_durable R116). -/
def Memory.recordActive (m : Memory) (r : Record) : Bool := m.read r.base != 0

/-- `readDurable(r)` (42_durable R116): the backup while the active flag is set, else the primary. -/
def Memory.readDurable (m : Memory) (r : Record) : List Word :=
  if m.recordActive r then m.backupOf r else m.primaryOf r

/-- The µop that writes durable word `a`. -/
def durableWord (a : Nat) (v : Word) : Uop := .dww (BitVec.ofNat 8 a) v

/-- The µops that write `vs` to the primary copy, in rising k. -/
def Record.writePrimary (r : Record) (vs : List Word) : List Uop :=
  vs.zipIdx.map fun p => durableWord (r.primaryAt p.2) p.1

/-- The µops that write `vs` to the backup copy, in rising k. -/
def Record.writeBackup (r : Record) (vs : List Word) : List Uop :=
  vs.zipIdx.map fun p => durableWord (r.backupAt p.2) p.1

/-- The repair phase of 42_durable R117: primary from backup, then the active flag cleared. Only for a record whose
last write was cut. -/
def Memory.repairUops (m : Memory) (r : Record) : List Uop :=
  if m.recordActive r then r.writePrimary (m.backupOf r) ++ [durableWord r.base 0] else []

/-- The µop list of `writeDurable(r, N)` (42_durable R117): WPU, the repair, phases 1 to 4, WPL. `DUR` is read at
call time. -/
def Memory.recordUops (m : Memory) (r : Record) (n : List Word) : List Uop :=
  [Uop.wpu] ++ m.repairUops r ++ r.writeBackup (m.readDurable r) ++ [durableWord r.base 1]
    ++ r.writePrimary n ++ [durableWord r.base 0] ++ [Uop.wpl]

/-- `enqueue(u)` for each µop of the list, in order (00_scope R10). -/
def State.enqueue (s : State) (us : List Uop) : State := { s with uq := s.uq ++ us }

/-- The repair of a record whose last write was cut, on its own: the repair phase of 42_durable R117 in the WPU/WPL
bracket that every durable write sequence has (20_memory R54, log 21). Empty for a record whose active flag is 0. -/
def Memory.repairList (m : Memory) (r : Record) : List Uop :=
  if m.recordActive r then [Uop.wpu] ++ m.repairUops r ++ [Uop.wpl] else []

/-- Queues the repair of record r, if its last write was cut (44_host R137). -/
def State.repairRecord (s : State) (r : Record) : State := s.enqueue (s.dur.repairList r)

/-- `writeDurable(r, N)` (42_durable R117). -/
def State.writeDurable (s : State) (r : Record) (n : List Word) : State := s.enqueue (s.dur.recordUops r n)

/-- The century record's value `(word 0, word 1 bit 0)` (42_durable R113, R116). -/
def Memory.readCentury (m : Memory) : BitVec 16 × Bool :=
  ((m.readDurable .crec).getD 0 0, ((m.readDurable .crec).getD 1 0).getLsbD 0)

/-- The words of the century record's value `(c, m)` (42_durable R113). -/
def centuryWords (c : BitVec 16) (m : Bool) : List Word := [c, (BitVec.ofBool m).setWidth 16]

/-- The three words of a timestamp record: w0 = P[15:0], w1 = P[31:16], w2 = P[47:32] (42_durable R114). -/
def stampWords (p : Stamp) : List Word := [p.extractLsb' 0 16, p.extractLsb' 16 16, p.extractLsb' 32 16]

/-- A flag record reads as set: its value is nonzero (42_durable R116). -/
def Memory.flagSet (m : Memory) (r : Record) : Bool := (m.readDurable r).getD 0 0 != 0

/-! ### µops -/

/-- `DWW(a, v)` on the durable memory: dropped with WP_FAULT while WP = 1 (42_durable R121). -/
def State.durableWrite (s : State) (a : BitVec 8) (v : Word) : State :=
  if s.wp then { s with wpFault := true } else { s with dur := s.dur.write a.toNat v }

/-- Event code 1, UNLOCK (10_state R39). -/
def eventUnlock : BitVec 8 := 1

/-- Event code 2, RTC_RESET (10_state R39). -/
def eventRtcReset : BitVec 8 := 2

/-- DWW(a, v) (42_durable R121); an address of DUR_WORDS or more is refused (20_memory R48, log 12). -/
def performDww (a : BitVec 8) (v : Word) (s : State) : Result :=
  if durAddressOk a then .next (s.durableWrite a v) else .refused .durableAddressOutside

/-- WPU: `WP <- 0` (42_durable R122). -/
def performWpu (s : State) : Result := .next { s with wp := false }

/-- WPL: `WP <- 1` (42_durable R123). -/
def performWpl (s : State) : Result := .next { s with wp := true }

/-- EMIT(e): `OUT <- OUT ++ [e]` (42_durable R124); a reserved code is refused (30_encoding R68, log 12). -/
def performEmit (e : BitVec 8) (s : State) : Result :=
  if eventCodeOk e then .next { s with out := s.out ++ [e] } else .refused .reservedEventCode

/-- The case of UOP_STEP on the µop (42_durable R120). -/
def performUop (u : Uop) (s : State) : Result :=
  match u with
  | .dww a v => performDww a v s
  | .wpu => performWpu s
  | .wpl => performWpl s
  | .emit e => performEmit e s

/-! ### Refused commands -/

/-- REJECT_REASON 1: a reserved encoding (10_state R31). -/
def reasonReserved : BitVec 2 := 1

/-- REJECT_REASON 2: a command not legal in the current state (10_state R31). -/
def reasonIllegal : BitVec 2 := 2

/-- REJECT_REASON 3: a COMMISSION of a commissioned device (10_state R31). -/
def reasonCommissioned : BitVec 2 := 3

/-- `reject(r)` (44_host R136): nothing else changes. -/
def State.reject (s : State) (r : BitVec 2) : State := { s with cmdReject := true, rejectReason := r }

end Sys2Proof.Machine
end

