-- ==== Sys2Proof/Machine/Operands.lean ====
section
/-! DEFINITION. Operand forms: BCD bytes and timestamp payloads (00_scope R12, 30_encoding R62, R66), the RTC
calendar (41_engine R109, R110), and the setting value with its digit rules (10_state R22, 43_input R131, R132). -/

namespace Sys2Proof.Machine

/-! ### BCD and timestamps -/

/-- A BCD byte is valid when both nibbles are at most 9 (00_scope R12). -/
def bcdOk (b : BitVec 8) : Bool := decide ((b.extractLsb' 4 4).toNat ≤ 9) && decide ((b.extractLsb' 0 4).toNat ≤ 9)

/-- `bcd2bin(b) = 10 * b[7:4] + b[3:0]` (00_scope R12). -/
def bcd2bin (b : BitVec 8) : Nat := 10 * (b.extractLsb' 4 4).toNat + (b.extractLsb' 0 4).toNat

/-- The byte of a payload that starts at bit `lo`. -/
def stampByte (p : Stamp) (lo : Nat) : BitVec 8 := p.extractLsb' lo 8

/-- The six fields of a payload in binary (30_encoding R62). -/
structure Timestamp where
  yy : Nat
  mm : Nat
  dd : Nat
  hh : Nat
  mi : Nat
  ss : Nat
  deriving DecidableEq, Repr

/-- `bcd2bin` of each byte of the payload: yy [47:40], mm [39:32], dd [31:24], hh [23:16], mi [15:8], ss [7:0]
(30_encoding R62). -/
def stampFields (p : Stamp) : Timestamp where
  yy := bcd2bin (stampByte p 40)
  mm := bcd2bin (stampByte p 32)
  dd := bcd2bin (stampByte p 24)
  hh := bcd2bin (stampByte p 16)
  mi := bcd2bin (stampByte p 8)
  ss := bcd2bin (stampByte p 0)

/-- Every byte of the payload is a valid BCD byte (41_engine R110). -/
def stampBcdOk (p : Stamp) : Bool :=
  bcdOk (stampByte p 40) && bcdOk (stampByte p 32) && bcdOk (stampByte p 24)
    && bcdOk (stampByte p 16) && bcdOk (stampByte p 8) && bcdOk (stampByte p 0)

/-- The days of month mm in a year that is not a leap year (41_engine R109). -/
def monthDays : List Nat := [31, 28, 31, 30, 31, 30, 31, 31, 30, 31, 30, 31]

/-- The days before month mm in a year that is not a leap year, `CUM` (41_engine R109). -/
def cumulativeDays : List Nat := [0, 31, 59, 90, 120, 151, 181, 212, 243, 273, 304, 334]

/-- Year 20yy is a leap year (41_engine R109). -/
def leapYear (yy : Nat) : Bool := yy % 4 == 0

/-- `DIM(yy, mm)`, for mm 1..12 (41_engine R109). -/
def daysInMonth (yy mm : Nat) : Nat := if mm = 2 ∧ leapYear yy then 29 else monthDays.getD (mm - 1) 0

/-- `rtcDays(yy, mm, dd)`, the days from 2000-01-01 to 20yy-mm-dd (41_engine R109). -/
def rtcDays (yy mm dd : Nat) : Nat :=
  365 * yy + (yy + 3) / 4 + cumulativeDays.getD (mm - 1) 0 + (if 2 < mm ∧ leapYear yy then 1 else 0) + dd - 1

/-- The ranges of the binary fields (41_engine R110). -/
def timestampInRange (t : Timestamp) : Bool :=
  decide (t.yy ≤ 99) && decide (1 ≤ t.mm) && decide (t.mm ≤ 12) && decide (1 ≤ t.dd)
    && decide (t.dd ≤ daysInMonth t.yy t.mm) && decide (t.hh ≤ 23) && decide (t.mi ≤ 59) && decide (t.ss ≤ 59)

/-- `validTs(P)` (41_engine R110). -/
def validTs (p : Stamp) : Bool := stampBcdOk p && timestampInRange (stampFields p)

/-! ### The setting value -/

/-- `DIG[k]` as a number. -/
def Setting.digit (t : Setting) (k : Fin 5) : Nat := (t.dig.get k).toNat

/-- `DIG[k] <- v`. -/
def Setting.setDigit (t : Setting) (k : Fin 5) (v : Nat) : Setting := { t with dig := t.dig.set k (BitVec.ofNat 4 v) }

/-- `VALUE = sum over k of DIG[k] * 10^k` (10_state R22). -/
def Setting.value (t : Setting) : Nat :=
  t.digit 0 + 10 * t.digit 1 + 100 * t.digit 2 + 1000 * t.digit 3 + 10000 * t.digit 4

/-- `UNIT_SECONDS` (00_scope R7, 41_engine R100). -/
def TimeUnit.inSeconds : TimeUnit → Nat
  | .seconds => 1
  | .hours => 3600
  | .days => 86400
  | .years => 31556926

/-- `(UNIT + 1) mod 4`: SECONDS, HOURS, DAYS, YEARS, SECONDS (43_input R133). -/
def TimeUnit.next : TimeUnit → TimeUnit
  | .seconds => .hours
  | .hours => .days
  | .days => .years
  | .years => .seconds

/-- The digit under the cursor: none at the units position 0, `DIG[c - 1]` at c in 1..5 (10_state R23). -/
def Setting.cursorDigit (t : Setting) : Option (Fin 5) :=
  if h : t.cursor.val = 0 then none else some ⟨t.cursor.val - 1, by omega⟩

/-- `maxDig(k)` (43_input R131). -/
def Setting.maxDigit (t : Setting) (k : Fin 5) : Nat :=
  if t.unit = .years then
    if 3 ≤ k.val then 0
    else if k.val = 2 then 1
    else if t.digit 2 = 1 then 0 else 9
  else 9

/-- The years cap of 43_input R132 on the hundreds digit and above: `DIG[3] <- 0; DIG[4] <- 0;
DIG[2] <- min(DIG[2], 1)`. -/
def Setting.capHundreds (t : Setting) : Setting :=
  ((t.setDigit 3 0).setDigit 4 0).setDigit 2 (Nat.min (t.digit 2) 1)

/-- The rest of 43_input R132: a hundreds digit of 1 clears the tens and ones. -/
def Setting.clearBelowHundred (t : Setting) : Setting :=
  if t.digit 2 = 1 then (t.setDigit 0 0).setDigit 1 0 else t

/-- `clampUnit()` (43_input R132). -/
def Setting.clampUnit (t : Setting) : Setting :=
  if t.unit = .years then t.capHundreds.clearBelowHundred else t

/-- `CURSOR <- (CURSOR + 1) mod 6` (43_input R130). -/
def Setting.advance (t : Setting) : Setting := { t with cursor := t.cursor + 1 }

/-- The unit or digit change of `actIncrement()` (43_input R133). -/
def Setting.increment (t : Setting) : Setting :=
  match t.cursorDigit with
  | none => Setting.clampUnit { t with unit := t.unit.next }
  | some k => (t.setDigit k (if t.digit k + 1 > t.maxDigit k then 0 else t.digit k + 1)).clampUnit

end Sys2Proof.Machine
end

