-- ==== Sys2Proof/Machine/Flags.lean ====
section
/-! DEFINITION. The flag computations: interrupt requests, the block's next step and what is enabled (60_exceptions
R144 to R151), and the derived BUSY (10_state R31). -/

namespace Sys2Proof.Machine

/-- `BUSY = (UQ nonempty) or DEB_ACTIVE = 1` (10_state R31). -/
def State.busy (s : State) : Bool := !s.uq.isEmpty || s.debActive

/-- The inputs that request the shared input interrupt: IFG[i] = 1 and IE[i] = 1 (10_state R28, 60_exceptions R149). -/
def State.requests (s : State) : InputBits := s.ifg.both s.ie

/-- The tick requests its interrupt: TICK_IFG = 1 and TICK_IE = 1 (60_exceptions R149). -/
def State.tickRequest (s : State) : Bool := s.tickIfg && s.tickIe

/-- The block's own next step, by the priority of 60_exceptions R147 items 1 to 4; none when it sleeps (R160). -/
def State.ownStep (s : State) : Option InternalStep :=
  if !s.uq.isEmpty then some .uopStep
  else if s.debActive then some .settleDone
  else if s.tickRequest then some .tickDispatch
  else if s.requests.some then some .inputEntry
  else none

/-- HOST_CMD is enabled: none of items 1 to 4 is (60_exceptions R147 item 5, 44_host R136). -/
def State.hostReady (s : State) : Bool := s.ownStep.isNone

/-- The transition of input i to `lvl` is the awaited one: 1 to 0 while EDGE[i] = 0, 0 to 1 while EDGE[i] = 1
(60_exceptions R145). -/
def awaitedEdge (edge old lvl : Bool) : Bool := (!edge && old && !lvl) || (edge && !old && lvl)

/-- The pin of input i is at the level of a pressed input (00_scope R7 ACTIVE_LEVEL). -/
def State.pressed (s : State) (i : Input) : Bool := s.pin.get i == Config.activeLevel

/-- An internal step runs only where R147 makes it the block's own next step; elsewhere there is no such step
(log 10). -/
def whenEnabled (k : InternalStep) (s : State) (r : Result) : Result :=
  if s.ownStep = some k then r else .fault .stepNotEnabled

/-- A host command runs only where HOST_CMD is enabled (44_host R136, log 10). -/
def whenHostReady (s : State) (r : Result) : Result :=
  if s.hostReady then r else .fault .commandPortNotReady

end Sys2Proof.Machine
end

