-- ==== Sys2Proof/Machine/Display.lean ====
section
/-! DEFINITION. The display family: glyphs, segment map, display surface, word cache and page painters (40_display
R72 to R94). Each painter is a function on the display alone, so it can change nothing else. -/

namespace Sys2Proof.Machine

/-! ### Glyphs -/

/-- The alphabet of 40_display R73. -/
inductive Symbol where
  | d0 | d1 | d2 | d3 | d4 | d5 | d6 | d7 | d8 | d9
  | hexA | hexB | hexC | hexD | hexE | hexF
  | letterH | letterR | letterS | letterY
  | space | dash | leftBracket | rightBracket
  deriving DecidableEq, Repr

/-- `GLYPH(c)` (40_display R73). -/
def glyph : Symbol → Glyph
  | .d0 => 0x3F
  | .d1 => 0x06
  | .d2 => 0x5B
  | .d3 => 0x4F
  | .d4 => 0x66
  | .d5 => 0x6D
  | .d6 => 0x7D
  | .d7 => 0x07
  | .d8 => 0x7F
  | .d9 => 0x6F
  | .hexA => 0x77
  | .hexB => 0x7C
  | .hexC => 0x39
  | .hexD => 0x5E
  | .hexE => 0x79
  | .hexF => 0x71
  | .letterH => 0x76
  | .letterR => 0x50
  | .letterS => 0x6D
  | .letterY => 0x6E
  | .space => 0x00
  | .dash => 0x40
  | .leftBracket => 0x39
  | .rightBracket => 0x0F

/-- The hex digits in order (40_display R73). -/
def digitSymbols : List Symbol :=
  [.d0, .d1, .d2, .d3, .d4, .d5, .d6, .d7, .d8, .d9, .hexA, .hexB, .hexC, .hexD, .hexE, .hexF]

/-- `DIGIT(n)`, for n in 0..15 (40_display R73). -/
def digitGlyph (n : Nat) : Glyph := glyph (digitSymbols.getD n .space)

/-- `UNIT_GLYPH(u)` (40_display R74). -/
def unitGlyph : TimeUnit → Glyph
  | .seconds => glyph .letterS
  | .hours => glyph .letterH
  | .days => glyph .hexD
  | .years => glyph .letterY

/-! ### Segment map -/

/-- The six digit positions, 0 the rightmost (40_display R76). -/
def positions : List (Fin 6) := [0, 1, 2, 3, 4, 5]

/-- The seven segments, A = 0 to G = 6 (40_display R72). -/
def segments : List (Fin 7) := [0, 1, 2, 3, 4, 5, 6]

/-- The three fields in order. -/
def fields : List Field := [.sec, .min, .hr]

/-- `SEG_MAP(p, s)` (40_display R75). -/
def segAt (m : SegMap) (p : Fin 6) (s : Fin 7) : SegLoc := (m.get p).get s

/-- Field F's ones position, 2F (40_display R76). -/
def Field.ones : Field → Fin 6
  | .sec => 0
  | .min => 2
  | .hr => 4

/-- Field F's tens position, 2F + 1 (40_display R76). -/
def Field.tens : Field → Fin 6
  | .sec => 1
  | .min => 3
  | .hr => 5

/-- `FWORD(F) = word(2F, 0)` (40_display R76). -/
def fieldWord (m : SegMap) (f : Field) : Nat := (segAt m f.ones 0).word

/-- The 42 segment locations. -/
def segLocs (m : SegMap) : List SegLoc := positions.flatMap fun p => segments.map fun s => segAt m p s

/-- No location occurs twice. -/
def allDistinct : List SegLoc → Bool
  | [] => true
  | l :: ls => !ls.contains l && allDistinct ls

/-- `LAYOUT_OK` (40_display R77): (a) every word and bit in range, (b) one word per position, (c) one word per
field, (d) the 42 locations distinct. -/
def layoutOk (m : SegMap) : Bool :=
  (segLocs m).all (fun l => decide (l.word < Config.dispWords) && decide (l.bit < 16))
    && positions.all (fun p => segments.all fun s => (segAt m p s).word == (segAt m p 0).word)
    && fields.all (fun f => (segAt m f.ones 0).word == (segAt m f.tens 0).word)
    && allDistinct (segLocs m)

/-! ### Display surface -/

/-- The words of a display buffer. -/
def Display.buffer (d : Display) : Buffer → Vector Word 3
  | .primary => d.primary
  | .alternate => d.alternate

/-- `DispRead(b, w)` (20_memory R47). No word exists at `w` of DISP_WORDS or more; `dispWrite` drops what is then
written back (log 8). -/
def Display.read (d : Display) (b : Buffer) (w : Nat) : Word := (d.buffer b)[w]?.getD 0

/-- `DispWrite(b, w, v)` (20_memory R47). A write to a word that does not exist changes no word that does: the
access has no "side effect beyond the written word" (log 8). -/
def Display.write (d : Display) (b : Buffer) (w : Nat) (v : Word) : Display :=
  match b with
  | .primary => { d with primary := d.primary.setIfInBounds w v }
  | .alternate => { d with alternate := d.alternate.setIfInBounds w v }

/-- `setSegment(b, p, s)` (40_display R78). -/
def setSegment (m : SegMap) (b : Buffer) (p : Fin 6) (s : Fin 7) (d : Display) : Display :=
  d.write b (segAt m p s).word (d.read b (segAt m p s).word ||| (1#16 <<< (segAt m p s).bit))

/-- `clearSegment(b, p, s)` (40_display R78). -/
def clearSegment (m : SegMap) (b : Buffer) (p : Fin 6) (s : Fin 7) (d : Display) : Display :=
  d.write b (segAt m p s).word (d.read b (segAt m p s).word &&& ~~~(1#16 <<< (segAt m p s).bit))

/-- One segment of `writeGlyph`: set or cleared as the glyph says (40_display R79). -/
def writeSegment (m : SegMap) (b : Buffer) (p : Fin 6) (g : Glyph) (d : Display) (s : Fin 7) : Display :=
  if g.getLsbD s.val then setSegment m b p s d else clearSegment m b p s d

/-- `writeGlyph(b, p, g)`: the set/clear variant (40_display R79). -/
def writeGlyph (m : SegMap) (b : Buffer) (p : Fin 6) (g : Glyph) (d : Display) : Display :=
  segments.foldl (writeSegment m b p g) d

/-- `writeBlank(b, p)` (40_display R80). -/
def writeBlank (m : SegMap) (b : Buffer) (p : Fin 6) (d : Display) : Display := writeGlyph m b p 0 d

/-- `for p in 0..5: writeBlank(b, p)`. -/
def blankBuffer (m : SegMap) (b : Buffer) (d : Display) : Display :=
  positions.foldl (fun d p => writeBlank m b p d) d

/-- `selectDisplayedBuffer(x)` (40_display R81). -/
def selectDisplayedBuffer (x : Buffer) (d : Display) : Display := { d with bank := x }

/-- `setBlinkMode(m)` (40_display R82). -/
def setBlinkMode (b : BlinkMode) (d : Display) : Display := { d with blink := b }

/-- `displayOn(x)` (40_display R83). -/
def displayOn (x : Bool) (d : Display) : Display := { d with lcdOn := x }

/-- `setBlinkMode(m); selectDisplayedBuffer(0); displayOn(1)`, the end of every page painter. -/
def showPrimary (b : BlinkMode) (d : Display) : Display :=
  displayOn true (selectDisplayedBuffer .primary (setBlinkMode b d))

/-- `hwClear()` (40_display R84). -/
def hwClear (d : Display) : Display := { d with primary := #v[0, 0, 0], alternate := #v[0, 0, 0] }

/-- The two phases of blinking (40_display R85). The phase's timing is not modelled (log 17). -/
inductive BlinkPhase where
  | on
  | off
  deriving DecidableEq, Repr

/-- The segment at word w, bit k is lit: an observation, not state (40_display R85). -/
def Display.lit (d : Display) (phase : BlinkPhase) (w k : Nat) : Bool :=
  d.lcdOn &&
    match d.blink with
    | .none => (d.read d.bank w).getLsbD k
    | .perSegment => (d.read d.bank w).getLsbD k && !(decide (phase = .off) && (d.read .alternate w).getLsbD k)
    | .allSegments => (d.read d.bank w).getLsbD k && decide (phase = .on)
    | .autoAlternate => if phase = .on then (d.read .primary w).getLsbD k else (d.read .alternate w).getLsbD k

/-- The glyph a word shows at position p, read back through SEG_MAP (40_display R89). -/
def glyphIn (m : SegMap) (p : Fin 6) (w : Word) : Glyph :=
  segments.foldl (fun g s => if w.getLsbD (segAt m p s).bit then g ||| (1#7 <<< s.val) else g) 0

/-! ### Word cache -/

/-- One segment's contribution to a cache word (40_display R86). -/
def cacheSegment (m : SegMap) (f : Field) (tens ones : Glyph) (w : Word) (s : Fin 7) : Word :=
  let w' := if tens.getLsbD s.val then w ||| (1#16 <<< (segAt m f.tens s).bit) else w
  if ones.getLsbD s.val then w' ||| (1#16 <<< (segAt m f.ones s).bit) else w'

/-- `CACHEWORD(F, v)` (40_display R86). -/
def cacheWord (m : SegMap) (f : Field) (v : Nat) : Word :=
  segments.foldl (cacheSegment m f (digitGlyph (v / 10)) (digitGlyph (v % 10))) 0

/-- The word cache `buildCache()` writes (40_display R87). -/
def cacheWords (m : SegMap) : WordCache where
  sec := Vector.ofFn fun v => cacheWord m .sec v.val
  min := Vector.ofFn fun v => cacheWord m .min v.val
  hr := Vector.ofFn fun v => cacheWord m .hr v.val

/-- `WORDFOR[F][v]`; outside the table a free value (10_state R34, log 7). -/
def WordCache.wordFor (c : WordCache) (f : Field) (v : Nat) : Word :=
  match f with
  | .sec => c.sec[v]?.getD (Config.cacheOutside 0 v)
  | .min => c.min[v]?.getD (Config.cacheOutside 1 v)
  | .hr => c.hr[v]?.getD (Config.cacheOutside 2 v)

/-- `buildCache()` (40_display R87). -/
def State.buildCache (s : State) : State :=
  if layoutOk s.params.segMap then { s with cache := cacheWords s.params.segMap, cacheValid := true } else s

/-- `fieldWrite(b, F, v)`: one whole-word store (40_display R88; its CACHE_VALID requirement: log 16). -/
def fieldWrite (m : SegMap) (c : WordCache) (b : Buffer) (f : Field) (v : Nat) (d : Display) : Display :=
  d.write b (fieldWord m f) (c.wordFor f v)

/-! ### Page painters -/

/-- `paintTimePage()` (40_display R90). -/
def paintTimePage (m : SegMap) (c : WordCache) (sec min hr : Nat) (d : Display) : Display :=
  fieldWrite m c .primary .hr hr (fieldWrite m c .primary .min min (fieldWrite m c .primary .sec sec d))

/-- The glyph of the day page at position p: blank for a leading zero, position 0 always shown (40_display R91). -/
def dayGlyph (n : Nat) (p : Fin 6) : Glyph :=
  if p.val = 0 ∨ 10 ^ p.val ≤ n then digitGlyph (n / 10 ^ p.val % 10) else 0

/-- `paintDayPage(d)` (40_display R91). -/
def paintDayPage (m : SegMap) (n : Nat) (d : Display) : Display :=
  positions.foldl (fun d p => writeGlyph m .alternate p (dayGlyph n p) d) d

/-- The glyph of the setting page at position p: the unit at 0, `DIG[p - 1]` at 1..5 (40_display R92). -/
def settingGlyph (t : Setting) (p : Fin 6) : Glyph :=
  if h : p.val = 0 then unitGlyph t.unit else digitGlyph (t.digit ⟨p.val - 1, by omega⟩)

/-- `paintSettingPage()` (40_display R92): the page in the primary buffer, the glyph under the cursor alone in the
alternate buffer, blinking perSegment. -/
def paintSettingPage (m : SegMap) (t : Setting) (d : Display) : Display :=
  showPrimary .perSegment
    (writeGlyph m .alternate t.cursor (settingGlyph t t.cursor)
      (blankBuffer m .alternate
        (positions.foldl (fun d p => writeGlyph m .primary p (settingGlyph t p) d) d)))

/-- `paintTerminal()` (40_display R93). -/
def paintTerminal (m : SegMap) (d : Display) : Display :=
  showPrimary .allSegments
    (positions.foldl
      (fun d p => writeBlank m .alternate p (writeGlyph m .primary p (digitGlyph Config.terminalDigit) d)) d)

/-- The glyph of the error page at position p: "Err  c" (40_display R94). -/
def errorGlyph (code : Nat) (p : Fin 6) : Glyph :=
  [digitGlyph code, 0, 0, glyph .letterR, glyph .letterR, glyph .hexE].getD p.val 0

/-- `paintError(code)` (40_display R94). -/
def paintError (m : SegMap) (code : Nat) (d : Display) : Display :=
  showPrimary .allSegments
    (blankBuffer m .alternate
      ([5, 4, 3, 2, 1, 0].foldl (fun d p => writeGlyph m .primary p (errorGlyph code p) d) d))

/-- Applies a painter to the state's display. -/
def State.paint (s : State) (f : SegMap → Display → Display) : State :=
  { s with display := f s.params.segMap s.display }

/-- `fieldWrite(0, F, v)` on the state (40_display R88). -/
def State.showField (s : State) (f : Field) (v : Nat) : State :=
  { s with display := fieldWrite s.params.segMap s.cache .primary f v s.display }

end Sys2Proof.Machine
end

