-- ==== Sys2Proof/Machine/Engine.lean ====
section
/-! DEFINITION. The time engine: TICK_DISPATCH and the procedures of 41_engine (R95 to R111). -/

namespace Sys2Proof.Machine

/-! ### Countdown -/

/-- All four time fields are zero (41_engine R98). -/
def State.timeZero (s : State) : Bool := s.sec == 0 && s.min == 0 && s.hr == 0 && s.days == 0

/-- `SEC <- v; fieldWrite(0, 0, v)`. -/
def State.showSec (s : State) (v : BitVec 6) : State := State.showField { s with sec := v } .sec v.toNat

/-- `MIN <- v; fieldWrite(0, 1, v)`. -/
def State.showMin (s : State) (v : BitVec 6) : State := State.showField { s with min := v } .min v.toNat

/-- `HR <- v; fieldWrite(0, 2, v)`. -/
def State.showHr (s : State) (v : BitVec 5) : State := State.showField { s with hr := v } .hr v.toNat

/-- `enterUnlocking()` (41_engine R99). -/
def enterUnlocking (s : State) : State := State.enqueue { s with eng := .unlocking } [.emit eventUnlock]

/-- The hours borrow of 41_engine R98. -/
def borrowHour (s : State) : State :=
  if 0 < s.hr then s.showHr (s.hr - 1) else { s.showHr 23 with days := s.days - 1 }

/-- The minutes borrow of 41_engine R98. -/
def borrowMinute (s : State) : State :=
  if 0 < s.min then s.showMin (s.min - 1) else borrowHour (s.showMin 59)

/-- The decrement of 41_engine R98. -/
def borrowSecond (s : State) : State :=
  if 0 < s.sec then s.showSec (s.sec - 1) else borrowMinute (s.showSec 59)

/-- The unlock test of 41_engine R98. -/
def unlockIfZero (s : State) : State := if s.timeZero then enterUnlocking s else s

/-- `tickDown()` (41_engine R98). -/
def tickDown (s : State) : State := if s.timeZero then enterUnlocking s else unlockIfZero (borrowSecond s)

/-! ### Count-up -/

/-- `dic`, the days into the current century; 0 in the states no run reaches where CENT * CENTURY_DAYS exceeds DAYS
(41_engine R103, log 13). -/
def State.daysInCentury (s : State) : Nat := s.days.toNat - s.cent.toNat * Config.centuryDays

/-- Loads CENT and MIDF and queues the century record's write of the same pair (41_engine R103, R111). -/
def writeCentury (s : State) (c : BitVec 16) (m : Bool) : State :=
  State.writeDurable { s with cent := c, midf := m } .crec (centuryWords c m)

/-- `centBook()` (41_engine R103). -/
def centBook (s : State) : State :=
  if Config.centuryDays ≤ s.daysInCentury then writeCentury s (s.cent + 1) false
  else if Config.midDays ≤ s.daysInCentury ∧ s.midf = false then writeCentury s s.cent true
  else s

/-- `(PAGE + 1) mod 3` (41_engine R104). -/
def Page.next : Page → Page
  | .time => .days
  | .days => .blank
  | .blank => .time

/-- The display of each page: a bank-select or an enable write (41_engine R104). -/
def showPage : Page → Display → Display
  | .time, d => displayOn true (selectDisplayedBuffer .primary d)
  | .days, d => displayOn true (selectDisplayedBuffer .alternate d)
  | .blank, d => displayOn false d

/-- The page a count-up tick moves to (41_engine R104). -/
def State.nextPage (s : State) : Page := if s.days = 0 then .time else s.page.next

/-- `pageRotate()` (41_engine R104). -/
def pageRotate (s : State) : State := { s with page := s.nextPage, display := showPage s.nextPage s.display }

/-- `enterTerminal()` (41_engine R105). -/
def enterTerminal (s : State) : State :=
  State.paint { s with eng := .terminal, sec := 0, min := 0, hr := 0, days := 0, page := .time } paintTerminal

/-- `paintDayPage(DAYS)` (41_engine R102, R111). -/
def State.paintDays (s : State) : State := s.paint (fun m => paintDayPage m s.days.toNat)

/-- The end of a day rollover, once DAYS has been incremented and booked (41_engine R102). -/
def finishDay (s : State) : State :=
  if Config.longNowDays ≤ s.days.toNat then enterTerminal s else pageRotate s.paintDays

/-- The day rollover of 41_engine R102. -/
def rollDay (s : State) : State := finishDay (centBook { s with days := s.days + 1 })

/-- The hours carry of 41_engine R102. -/
def carryHour (s : State) : State :=
  if s.hr + 1 < 24 then pageRotate (s.showHr (s.hr + 1)) else rollDay (s.showHr 0)

/-- The minutes carry of 41_engine R102. -/
def carryMinute (s : State) : State :=
  if s.min + 1 < 60 then pageRotate (s.showMin (s.min + 1)) else carryHour (s.showMin 0)

/-- `tickUp()` (41_engine R102). -/
def tickUp (s : State) : State :=
  if s.sec + 1 < 60 then pageRotate (s.showSec (s.sec + 1)) else carryMinute (s.showSec 0)

/-! ### Entries to COUNTING, and ERROR -/

/-- The display set-up of COUNTING (41_engine R107). -/
def countingDisplay (c : WordCache) (sec min hr : Nat) (m : SegMap) (d : Display) : Display :=
  blankBuffer m .alternate (paintTimePage m c sec min hr (showPrimary .none d))

/-- `enterCountingDisplay()` (41_engine R107). -/
def enterCountingDisplay (s : State) : State :=
  s.paint (countingDisplay s.cache s.sec.toNat s.min.toNat s.hr.toNat)

/-- `MODE <- m; PAGE <- 0; ENG_STATE <- COUNTING; enterCountingDisplay()` (41_engine R100, R106, R111). -/
def enterCounting (s : State) (m : CountMode) : State :=
  enterCountingDisplay { s with mode := m, page := .time, eng := .counting }

/-- The time of `t` seconds as DAYS, HR, MIN, SEC (41_engine R100). -/
def State.setDuration (s : State) (t : Nat) : State :=
  { s with
    days := BitVec.ofNat 32 (t / Config.secPerDay)
    hr := BitVec.ofNat 5 (t % Config.secPerDay / 3600)
    min := BitVec.ofNat 6 (t % 3600 / 60)
    sec := BitVec.ofNat 6 (t % 60) }

/-- `T = VALUE * UNIT_SECONDS[UNIT]`, exact (41_engine R100, R101). -/
def Setting.seconds (t : Setting) : Nat := t.value * t.unit.inSeconds

/-- `commit()`, the lock case (41_engine R100). -/
def commit (s : State) : State :=
  (enterCounting (s.setDuration s.setting.seconds) .down).enqueue [.emit eventRtcReset]

/-- The µops of a launch: launch timestamp, launch flag, RTC_RESET (41_engine R106). -/
def launchQueue (s : State) : State :=
  ((s.writeDurable .lts (stampWords s.tsLatch)).writeDurable .lflag [1]).enqueue [.emit eventRtcReset]

/-- The time state of a launch: zero time, CENT and MIDF from the century record (41_engine R106). -/
def launchTime (s : State) : State :=
  { s with sec := 0, min := 0, hr := 0, days := 0, cent := s.dur.readCentury.1, midf := s.dur.readCentury.2 }

/-- `IE[TRIG] <- 0; ARMED[TRIG] <- 0`: the one-shot (41_engine R106, 44_host R137). -/
def disableTrigger (s : State) : State := { s with ie := s.ie.set .trig false, armed := s.armed.set .trig false }

/-- `launch()` (41_engine R106). -/
def launch (s : State) : State :=
  (enterCounting (launchTime (launchQueue (disableTrigger s))) .up).paint (fun m => paintDayPage m 0)

/-- `enterError(code)` (41_engine R108). -/
def enterError (s : State) (code : BitVec 4) : State :=
  State.paint { s with eng := .error, errCode := code } (fun m => paintError m code.toNat)

/-- Error code 1: the layout self-check failed (10_state R16). -/
def errorLayout : BitVec 4 := 1

/-- Error code 2: an invalid RTC readout (10_state R16). -/
def errorClock : BitVec 4 := 2

/-! ### Boot restore -/

/-- The century correction of 41_engine R111 of a pair `(c, m)` read from CREC: the RTC year wrapped, or the
midpoint passed, while the power was off. A corrected pair is queued for writing, which repairs a cut write first; a
restore that corrects nothing queues the repair alone ("A restore that finds an interrupted CREC write queues its
repair", 44_host R137; 70_reset_and_hazards R164; log 21). -/
def correctCentury (s : State) (c : BitVec 16) (m : Bool) (yy : Nat) : State :=
  if m = true ∧ yy < Config.midYear then writeCentury s (c + 1) false
  else if m = false ∧ Config.midYear ≤ yy then writeCentury s c true
  else State.repairRecord { s with cent := c, midf := m } .crec

/-- `(c, m) <- readDurable(CREC)` and its correction (41_engine R111). -/
def restoreCentury (s : State) (yy : Nat) : State := correctCentury s s.dur.readCentury.1 s.dur.readCentury.2 yy

/-- `DAYS <- c * CENTURY_DAYS + rtcDays(yy, mm, dd); HR <- hh; MIN <- mi; SEC <- ss` (41_engine R111). -/
def restoreTime (s : State) (t : Timestamp) : State :=
  { s with
    days := BitVec.ofNat 32 (s.cent.toNat * Config.centuryDays + rtcDays t.yy t.mm t.dd)
    hr := BitVec.ofNat 5 t.hh
    min := BitVec.ofNat 6 t.mi
    sec := BitVec.ofNat 6 t.ss }

/-- The end of 41_engine R111: TERMINAL, or COUNTING(CountUp) with the day page. -/
def resumeCount (s : State) : State :=
  if Config.longNowDays ≤ s.days.toNat then enterTerminal s else (enterCounting s .up).paintDays

/-- `bootRestore(P)` (41_engine R111). -/
def bootRestore (p : Stamp) (s : State) : State :=
  if validTs p then resumeCount (restoreTime (restoreCentury s (stampFields p).yy) (stampFields p))
  else enterError s errorClock

/-! ### The tick step -/

/-- The pseudocode of TICK_DISPATCH (41_engine R96). -/
def dispatchTick (s : State) : State :=
  let s := { s with tickIfg := false }
  match s.eng with
  | .counting =>
    match s.mode with
    | .down => tickDown s
    | .up => tickUp s
  | .idle => s
  | .setting => s
  | .unlocking => s
  | .terminal => s
  | .error => s

/-- TICK_DISPATCH (41_engine R96). -/
def execTickDispatch (s : State) : Result := whenEnabled .tickDispatch s (.next (dispatchTick s))

end Sys2Proof.Machine
end

