-- ==== Sys2Proof/Machine/Durable.lean ====
section
/-! DEFINITION. The µop queue step UOP_STEP and the four µops DWW, WPU, WPL and EMIT (42_durable R120 to R124). -/

namespace Sys2Proof.Machine

/-- UOP_STEP: performs and removes the head of UQ (42_durable R120). -/
def execUopStep (s : State) : Result :=
  match s.uq with
  | [] => .fault .stepNotEnabled
  | u :: rest => performUop u { s with uq := rest }

/-- DWW(a, v) (42_durable R121). -/
def execDww (a : BitVec 8) (v : Word) (s : State) : Result := performDww a v s

/-- WPU (42_durable R122). -/
def execWpu (s : State) : Result := performWpu s

/-- WPL (42_durable R123). -/
def execWpl (s : State) : Result := performWpl s

/-- EMIT(e) (42_durable R124). -/
def execEmit (e : BitVec 8) (s : State) : Result := performEmit e s

end Sys2Proof.Machine
end

