-- ==== Sys2Proof/Machine/Events.lean ====
section
/-! DEFINITION. The environment events TICK_EDGE, PIN_CHANGE and POWER_LOSS (60_exceptions R144, R145, R146). -/

namespace Sys2Proof.Machine

/-- TICK_EDGE (60_exceptions R144). -/
def execTickEdge (s : State) : Result := .next { s with tickLost := s.tickLost || s.tickIfg, tickIfg := true }

/-- The pseudocode of PIN_CHANGE (60_exceptions R145). -/
def changePin (i : Input) (lvl : Bool) (s : State) : State :=
  { s with
    pin := s.pin.set i lvl
    ifg := if awaitedEdge (s.edge.get i) (s.pin.get i) lvl then s.ifg.set i true else s.ifg }

/-- PIN_CHANGE(i, lvl): "a change to the same level is not a step" (60_exceptions R145, log 10). -/
def execPinChange (i : Input) (lvl : Bool) (s : State) : Result :=
  if s.pin.get i = lvl then .fault .pinLevelUnchanged else .next (changePin i lvl s)

/-- The display after the n-th power-up: control registers 0, the memory unspecified, here free values (10_state
R33, R44, log 6). -/
def Display.powerUp (n : Nat) : Display where
  primary := Vector.ofFn fun w => Config.powerUpDisplay n 0 w.val
  alternate := Vector.ofFn fun w => Config.powerUpDisplay n 1 w.val
  bank := .primary
  blink := .none
  lcdOn := false

/-- The word cache after the n-th power-up: unspecified, here free values (10_state R34, R44, log 6). -/
def WordCache.powerUp (n : Nat) : WordCache where
  sec := Vector.ofFn fun v => Config.powerUpCache n 0 v.val
  min := Vector.ofFn fun v => Config.powerUpCache n 1 v.val
  hr := Vector.ofFn fun v => Config.powerUpCache n 2 v.val

/-- Every volatile element at its reset value; DUR, OUT, PIN and the parameters kept; UQ discarded (60_exceptions
R146, 10_state R44). The offers are the environment's, not the block's. -/
def powerCycle (s : State) : State :=
  { State.reset with
    params := s.params
    pin := s.pin
    dur := s.dur
    out := s.out
    display := Display.powerUp s.powerUps
    cache := WordCache.powerUp s.powerUps
    offers := s.offers
    powerUps := s.powerUps + 1 }

/-- POWER_LOSS (60_exceptions R146). -/
def execPowerLoss (s : State) : Result := .next (powerCycle s)

end Sys2Proof.Machine
end

