-- ==== Sys2Proof/Machine/InputLine.lean ====
section
/-! DEFINITION. The input line: INPUT_ENTRY, SETTLE_DONE and the logical actions (43_input R125 to R135). -/

namespace Sys2Proof.Machine

/-- `paintSettingPage()` on the state (40_display R92). -/
def State.paintSetting (s : State) : State := s.paint (fun m => paintSettingPage m s.setting)

/-- `actAdvance()` (43_input R130). -/
def actAdvance (s : State) : State := State.paintSetting { s with setting := s.setting.advance }

/-- `actIncrement()` (43_input R133). -/
def actIncrement (s : State) : State := State.paintSetting { s with setting := s.setting.increment }

/-- `actTrigger()`: commit in CONFIG 0, launch in CONFIG 1 (43_input R135). -/
def actTrigger (s : State) : State :=
  match s.params.config with
  | .countdownUnlock => commit s
  | .elapsedSinceLaunch => launch s

/-- Button i of the snapshot acts: armed, a press awaited, and SETTING (43_input R126). -/
def buttonActs (snapshot : InputBits) (i : Input) (s : State) : Bool :=
  snapshot.get i && s.armed.get i && !s.edge.get i && decide (s.eng = .setting)

/-- BTN_ADV's turn in INPUT_ENTRY (43_input R126). -/
def entryAdvance (snapshot : InputBits) (s : State) : State :=
  if buttonActs snapshot .adv s then actAdvance s else s

/-- BTN_INC's turn in INPUT_ENTRY, after BTN_ADV's (43_input R126). -/
def entryIncrement (snapshot : InputBits) (s : State) : State :=
  if buttonActs snapshot .inc s then actIncrement s else s

/-- The pseudocode of INPUT_ENTRY (43_input R126). -/
def enterInput (s : State) : State :=
  { entryIncrement s.requests (entryAdvance s.requests s) with debSet := s.requests, debActive := true }

/-- INPUT_ENTRY (43_input R126). -/
def execInputEntry (s : State) : Result := whenEnabled .inputEntry s (.next (enterInput s))

/-- The confirmed trigger press acts: armed and SETTING (43_input R127). -/
def triggerActs (i : Input) (s : State) : Bool :=
  decide (i = .trig) && s.armed.trig && decide (s.eng = .setting)

/-- A confirmed press of input i: the trigger's action, then `EDGE[i] <- 1; ARMED[i] <- 0` (43_input R127). -/
def confirmPress (i : Input) (s : State) : State :=
  let s := if triggerActs i s then actTrigger s else s
  { s with edge := s.edge.set i true, armed := s.armed.set i false }

/-- A confirmed release of input i: `EDGE[i] <- 0`, re-armed unless it is the disabled trigger (43_input R127). -/
def confirmRelease (i : Input) (s : State) : State :=
  let s := { s with edge := s.edge.set i false }
  if i = .trig ∧ s.ie.trig = false then s else { s with armed := s.armed.set i true }

/-- The re-sample of one input of DEB_SET (43_input R127). -/
def settleInput (i : Input) (s : State) : State :=
  let s := { s with ifg := s.ifg.set i false }
  if s.edge.get i then (if s.pressed i then s else confirmRelease i s)
  else (if s.pressed i then confirmPress i s else s)

/-- One input's turn in SETTLE_DONE; an input outside DEB_SET is untouched (43_input R127). -/
def settleTurn (i : Input) (s : State) : State := if s.debSet.get i then settleInput i s else s

/-- The pseudocode of SETTLE_DONE (43_input R127). -/
def settleInputs (s : State) : State :=
  { settleTurn .trig (settleTurn .inc (settleTurn .adv s)) with debSet := InputBits.zero, debActive := false }

/-- SETTLE_DONE (43_input R127). -/
def execSettleDone (s : State) : Result := whenEnabled .settleDone s (.next (settleInputs s))

end Sys2Proof.Machine
end

