-- ==== Sys2Proof/Machine/HostPort.lean ====
section
/-! DEFINITION. The five host commands (44_host R136 to R142). -/

namespace Sys2Proof.Machine

/-- BOOT's clear flags and enables (44_host R137). -/
def bootEnables (s : State) : State :=
  { s with ifg := InputBits.zero, tickIfg := false, ie := InputBits.ones, tickIe := true }

/-- BOOT's display clear and set-up (44_host R137). -/
def bootDisplay (s : State) : State := s.paint (fun _ d => showPrimary .none (hwClear d))

/-- ENG_STATE <- SETTING; paintSettingPage() (44_host R137, R138). -/
def enterSetting (s : State) : State := State.paintSetting { s with eng := .setting }

/-- A launched device: CONFIG 1 and a launch flag that reads nonzero (44_host R137). -/
def State.launched (s : State) : Bool := decide (s.params.config = .elapsedSinceLaunch) && s.dur.flagSet .lflag

/-- BOOT after the enables: the restore of a launched device, else SETTING (44_host R137). -/
def bootEngine (p : Stamp) (s : State) : State :=
  if s.launched then bootRestore p (disableTrigger s) else enterSetting s

/-- BOOT(P) in IDLE (44_host R137). -/
def bootBlock (p : Stamp) (s : State) : State :=
  if layoutOk s.params.segMap then bootEngine p (bootEnables (bootDisplay s).buildCache)
  else enterError (bootDisplay s) errorLayout

/-- BOOT(P), with its legal state (44_host R137, R142). -/
def hostBoot (p : Stamp) (s : State) : State :=
  if s.eng = .idle then bootBlock p s else s.reject reasonIllegal

/-- BOOT(P) (44_host R137). -/
def execBoot (p : Stamp) (s : State) : Result := whenHostReady s (.next (hostBoot p s))

/-- UNLOCK_DONE, with its legal state (44_host R138, R142). -/
def hostUnlockDone (s : State) : State :=
  if s.eng = .unlocking then enterSetting s else s.reject reasonIllegal

/-- UNLOCK_DONE (44_host R138). -/
def execUnlockDone (s : State) : Result := whenHostReady s (.next (hostUnlockDone s))

/-- The states in which COMMISSION is legal (44_host R139, R142). -/
def commissionLegal : EngState → Bool
  | .idle => false
  | .setting => true
  | .counting => true
  | .unlocking => true
  | .terminal => false
  | .error => false

/-- COMMISSION(P), with its legal states and the write-once guard (44_host R139). -/
def hostCommission (p : Stamp) (s : State) : State :=
  if commissionLegal s.eng then
    if s.dur.flagSet .cflag then s.reject reasonCommissioned
    else (s.writeDurable .cts (stampWords p)).writeDurable .cflag [1]
  else s.reject reasonIllegal

/-- COMMISSION(P) (44_host R139). -/
def execCommission (p : Stamp) (s : State) : Result := whenHostReady s (.next (hostCommission p s))

/-- SET_TS_LATCH(P) (44_host R140). -/
def execSetTsLatch (p : Stamp) (s : State) : Result := whenHostReady s (.next { s with tsLatch := p })

/-- CLEAR_STATUS (44_host R141). -/
def execClearStatus (s : State) : Result :=
  whenHostReady s (.next { s with tickLost := false, cmdReject := false, rejectReason := 0, wpFault := false })

end Sys2Proof.Machine
end

