-- ==== Sys2Proof/Machine/Dispatch.lean ====
section
/-! DEFINITION. The dispatch: one arm per label, each one direct call of its meaning. -/

namespace Sys2Proof.Machine

def exec (i : Instr) (s : State) : Host.Outcome State Fault Refusal :=
  match i with
  | .boot p => Sys2Proof.Machine.execBoot p s
  | .unlockDone => Sys2Proof.Machine.execUnlockDone s
  | .commission p => Sys2Proof.Machine.execCommission p s
  | .setTsLatch p => Sys2Proof.Machine.execSetTsLatch p s
  | .clearStatus => Sys2Proof.Machine.execClearStatus s
  | .tickEdge => Sys2Proof.Machine.execTickEdge s
  | .pinChange k lvl => Sys2Proof.Machine.execPinChange k lvl s
  | .powerLoss => Sys2Proof.Machine.execPowerLoss s
  | .tickDispatch => Sys2Proof.Machine.execTickDispatch s
  | .inputEntry => Sys2Proof.Machine.execInputEntry s
  | .settleDone => Sys2Proof.Machine.execSettleDone s
  | .uopStep => Sys2Proof.Machine.execUopStep s
  | .dww a v => Sys2Proof.Machine.execDww a v s
  | .wpu => Sys2Proof.Machine.execWpu s
  | .wpl => Sys2Proof.Machine.execWpl s
  | .emit e => Sys2Proof.Machine.execEmit e s

end Sys2Proof.Machine
end

