-- ==== Sys2Proof/Decode.lean ====
section
/-! DEFINITION. Decoding of 64-bit label words, total, rejecting by name (30_encoding R60 to R69), and the encoder
written from the same tables. -/

namespace Sys2Proof

/-- Why a label word is reserved, one reason per line of 30_encoding R68. -/
inductive DecodeError where
  /-- CLASS 4..15. -/
  | reservedClass
  /-- An OP the class does not define. -/
  | reservedOp
  /-- RSV nonzero. -/
  | reservedBits
  /-- An OPERAND bit set that the operation's format does not use. -/
  | unusedOperandBits
  /-- PIN_CHANGE with input index 3. -/
  | reservedInput
  /-- EMIT with a code other than 1 or 2. -/
  | reservedEvent
  deriving DecidableEq, Repr

/-- CLASS, bits [63:60] (30_encoding R60). -/
def Label.cls (w : Label) : BitVec 4 := w.extractLsb' 60 4

/-- OP, bits [59:56] (30_encoding R60). -/
def Label.op (w : Label) : BitVec 4 := w.extractLsb' 56 4

/-- RSV, bits [55:48] (30_encoding R60). -/
def Label.rsv (w : Label) : BitVec 8 := w.extractLsb' 48 8

/-- OPERAND, bits [47:0] (30_encoding R60). -/
def Label.operand (w : Label) : BitVec 48 := w.extractLsb' 0 48

/-- An operation whose OPERAND is 0 (30_encoding R61, R63, R64, R65). -/
def decodeBare (operand : BitVec 48) (i : Instr) : Except DecodeError Instr :=
  if operand = 0#48 then .ok i else .error .unusedOperandBits

/-- PIN_CHANGE: input index in OPERAND[1:0], level in OPERAND[8], every other bit 0 (30_encoding R63, R66). -/
def decodePinChange (operand : BitVec 48) : Except DecodeError Instr :=
  let lvl := operand.getLsbD 8
  if operand.extractLsb' 2 6 ≠ 0#6 ∨ operand.extractLsb' 9 39 ≠ 0#39 then .error .unusedOperandBits
  else if operand.extractLsb' 0 2 = 0#2 then .ok (.pinChange .adv lvl)
  else if operand.extractLsb' 0 2 = 1#2 then .ok (.pinChange .inc lvl)
  else if operand.extractLsb' 0 2 = 2#2 then .ok (.pinChange .trig lvl)
  else .error .reservedInput

/-- DWW: address in OPERAND[23:16], value in OPERAND[15:0], OPERAND[47:24] = 0 (30_encoding R65, R66). -/
def decodeDww (operand : BitVec 48) : Except DecodeError Instr :=
  if operand.extractLsb' 24 24 = 0#24 then .ok (.dww (operand.extractLsb' 16 8) (operand.extractLsb' 0 16))
  else .error .unusedOperandBits

/-- EMIT: event code in OPERAND[7:0], OPERAND[47:8] = 0, code 1 or 2 (30_encoding R65, R68). -/
def decodeEmit (operand : BitVec 48) : Except DecodeError Instr :=
  if operand.extractLsb' 8 40 ≠ 0#40 then .error .unusedOperandBits
  else if eventCodeOk (operand.extractLsb' 0 8) then .ok (.emit (operand.extractLsb' 0 8))
  else .error .reservedEvent

/-- CLASS 0, host commands (30_encoding R67). -/
def decodeCommandOp (op : BitVec 4) (operand : BitVec 48) : Except DecodeError Instr :=
  if op = 1#4 then .ok (.boot operand)
  else if op = 2#4 then decodeBare operand .unlockDone
  else if op = 3#4 then .ok (.commission operand)
  else if op = 4#4 then .ok (.setTsLatch operand)
  else if op = 5#4 then decodeBare operand .clearStatus
  else .error .reservedOp

/-- CLASS 1, environment events (30_encoding R67). -/
def decodeEventOp (op : BitVec 4) (operand : BitVec 48) : Except DecodeError Instr :=
  if op = 1#4 then decodeBare operand .tickEdge
  else if op = 2#4 then decodePinChange operand
  else if op = 3#4 then decodeBare operand .powerLoss
  else .error .reservedOp

/-- CLASS 2, internal steps (30_encoding R67). -/
def decodeInternalOp (op : BitVec 4) (operand : BitVec 48) : Except DecodeError Instr :=
  if op = 1#4 then decodeBare operand .tickDispatch
  else if op = 2#4 then decodeBare operand .inputEntry
  else if op = 3#4 then decodeBare operand .settleDone
  else if op = 4#4 then decodeBare operand .uopStep
  else .error .reservedOp

/-- CLASS 3, µops (30_encoding R67). -/
def decodeUopOp (op : BitVec 4) (operand : BitVec 48) : Except DecodeError Instr :=
  if op = 1#4 then decodeDww operand
  else if op = 2#4 then decodeBare operand .wpu
  else if op = 3#4 then decodeBare operand .wpl
  else if op = 4#4 then decodeEmit operand
  else .error .reservedOp

/-- The decoder: CLASS and OP, with RSV and the unused OPERAND bits checked against 0 (30_encoding R60, R68). -/
def decode (w : Label) : Except DecodeError Instr :=
  if w.rsv ≠ 0#8 then .error .reservedBits
  else if w.cls = 0#4 then decodeCommandOp w.op w.operand
  else if w.cls = 1#4 then decodeEventOp w.op w.operand
  else if w.cls = 2#4 then decodeInternalOp w.op w.operand
  else if w.cls = 3#4 then decodeUopOp w.op w.operand
  else .error .reservedClass

/-- A word offered on the command port that is a command: CLASS 0 and not reserved (44_host R136, 30_encoding R68). -/
def decodeCommand (w : Label) : Option Instr :=
  if w.cls = 0#4 then
    match decode w with
    | .ok i => some i
    | .error _ => none
  else none

/-- A label word from its fields, RSV 0 (30_encoding R60). -/
def encodeFields (cls op : BitVec 4) (operand : BitVec 48) : Label := cls ++ op ++ 0#8 ++ operand

/-- The input index of 10_state R24. -/
def Input.code : Input → BitVec 2
  | .adv => 0#2
  | .inc => 1#2
  | .trig => 2#2

/-- The encoder, from the opcode map of 30_encoding R67. -/
def encode : Instr → Label
  | .boot p => encodeFields 0#4 1#4 p
  | .unlockDone => encodeFields 0#4 2#4 0#48
  | .commission p => encodeFields 0#4 3#4 p
  | .setTsLatch p => encodeFields 0#4 4#4 p
  | .clearStatus => encodeFields 0#4 5#4 0#48
  | .tickEdge => encodeFields 1#4 1#4 0#48
  | .pinChange i lvl => encodeFields 1#4 2#4 (0#39 ++ BitVec.ofBool lvl ++ 0#6 ++ i.code)
  | .powerLoss => encodeFields 1#4 3#4 0#48
  | .tickDispatch => encodeFields 2#4 1#4 0#48
  | .inputEntry => encodeFields 2#4 2#4 0#48
  | .settleDone => encodeFields 2#4 3#4 0#48
  | .uopStep => encodeFields 2#4 4#4 0#48
  | .dww a v => encodeFields 3#4 1#4 (0#24 ++ a ++ v)
  | .wpu => encodeFields 3#4 2#4 0#48
  | .wpl => encodeFields 3#4 3#4 0#48
  | .emit e => encodeFields 3#4 4#4 (0#40 ++ e)

/-- The label word of `nbits` bits `w`, every bit above them 0. A label is one 64-bit word (30_encoding R60, R69). -/
def tableLabel (nbits w : Nat) : Label := BitVec.ofNat 64 (w % 2 ^ nbits)

/-- What the decoder reads from the table word `w` of `nbits` bits, numbered as spec/opcode_table.json numbers them. -/
def decodeTableWord (nbits w : Nat) : Option Instr :=
  match decode (tableLabel nbits w) with
  | .ok i => some i
  | .error _ => none

end Sys2Proof
end

