-- ==== Sys2Proof/Machine/Sequencer.lean ====
section
/-! DEFINITION. What happens at a step boundary: the block's own next step, the host's word on the command port, or
a label of the environment, by 60_exceptions R147 and 44_host R136. The order of the agents is the order of
`offers` (log 1). -/

namespace Sys2Proof.Machine

/-- What the next step is. -/
inductive Action where
  /-- Execute the instruction in the state. -/
  | run (i : Instr) (s : State)
  /-- A step that executes no instruction, and its next state. -/
  | goto (s : State)
  /-- No step: the offered word names none. -/
  | refuse (r : Refusal)
  deriving DecidableEq, Repr

/-- The block's own next step (60_exceptions R147 items 1 to 4); with none enabled it sleeps, unchanged (R160, log 14). -/
def ownAction (s : State) : Action :=
  match s.ownStep with
  | some k => .run k.toInstr s
  | none => .goto s

/-- The rest of the offers, once the first is taken. -/
def State.takeOffer (s : State) : State := { s with offers := s.offers.tail }

/-- HOST_CMD(L): the command of the word, or its refusal with reason 1. While it is not enabled the host waits: the
word stays offered and the block takes its own next step (44_host R136). -/
def portAction (w : Label) (s : State) : Action :=
  if s.hostReady then
    match decodeCommand w with
    | some i => .run i s.takeOffer
    | none => .goto (s.takeOffer.reject reasonReserved)
  else ownAction s

/-- A decoded label: an event or an internal step runs; a µop word is never a step (30_encoding R65, log 11). A
command comes through the port. -/
def runLabel (i : Instr) (w : Label) (s : State) : Action :=
  match i.labelClass with
  | .command => portAction w s
  | .event => .run i s.takeOffer
  | .internal => .run i s.takeOffer
  | .uop => .refuse .uopIsNoStep

/-- A label word: CLASS 0 is the host's write to the command port; a reserved word of another class is refused by
name (30_encoding R68, log 11). -/
def labelAction (w : Label) (s : State) : Action :=
  if w.cls = 0#4 then portAction w s
  else
    match decode w with
    | .ok i => runLabel i w s
    | .error _ => .refuse .reservedLabel

/-- The action of the next step boundary. -/
def nextAction (s : State) : Action :=
  match s.offers with
  | [] => ownAction s
  | .label w :: _ => labelAction w s
  | .port w :: _ => portAction w s

/-! ### Placing an instruction as the next step -/

/-- `s` with no internal step enabled, so that the command port is ready (44_host R136). -/
def State.quiesce (s : State) : State :=
  { s with
    uq := []
    debActive := false
    tickIfg := s.tickIfg && !s.tickIe
    ifg := ⟨s.ifg.adv && !s.ie.adv, s.ifg.inc && !s.ie.inc, s.ifg.trig && !s.ie.trig⟩ }

/-- `s` with the word `w` offered first. -/
def State.offer (s : State) (w : Label) : State := { s with offers := .label w :: s.offers }

/-- `s` where the internal step is the block's own next step, changed only where it is not already. -/
def State.enable (s : State) (k : InternalStep) : State :=
  if s.ownStep = some k then s
  else
    match k with
    | .uopStep => { s with uq := [.wpl] }
    | .settleDone => { s with uq := [], debActive := true }
    | .tickDispatch => { s with uq := [], debActive := false, tickIfg := true, tickIe := true }
    | .inputEntry => { s.quiesce with ifg := ⟨true, false, false⟩, ie := { s.ie with adv := true } }

/-- `s` where `w`, the word of a command, event or internal step, is the next step; a µop word is put at the head
of UQ, where UOP_STEP takes it (log 1). -/
def State.placeInstr (s : State) (i : Instr) (w : Label) : State :=
  match i with
  | .boot _ => s.quiesce.offer w
  | .unlockDone => s.quiesce.offer w
  | .commission _ => s.quiesce.offer w
  | .setTsLatch _ => s.quiesce.offer w
  | .clearStatus => s.quiesce.offer w
  | .tickEdge => s.offer w
  | .pinChange i lvl => State.offer { s with pin := s.pin.set i (!lvl) } w
  | .powerLoss => s.offer w
  | .tickDispatch => (s.enable .tickDispatch).offer w
  | .inputEntry => (s.enable .inputEntry).offer w
  | .settleDone => (s.enable .settleDone).offer w
  | .uopStep => (s.enable .uopStep).offer w
  | .dww a v => State.offer { s with uq := .dww a v :: s.uq } (encode .uopStep)
  | .wpu => State.offer { s with uq := .wpu :: s.uq } (encode .uopStep)
  | .wpl => State.offer { s with uq := .wpl :: s.uq } (encode .uopStep)
  | .emit e => State.offer { s with uq := .emit e :: s.uq } (encode .uopStep)

/-- `s` where the table word `w` of `nbits` bits is the next step; a reserved word is offered as it stands. -/
def placeTableWord (s : State) (nbits w : Nat) : State :=
  match decode (tableLabel nbits w) with
  | .ok i => s.placeInstr i (tableLabel nbits w)
  | .error _ => s.offer (tableLabel nbits w)

end Sys2Proof.Machine
end

