-- ==== Sys2Proof/Machine/Step.lean ====
section
/-! DEFINITION. One step of the block (60_exceptions R147), and the placing of an instruction as its next step. -/

namespace Sys2Proof.Machine

/-- One step: the action of the step boundary, carried out. -/
def step (s : State) : Host.Outcome State Fault Refusal :=
  match nextAction s with
  | .run i s' => exec i s'
  | .goto s' => .next s'
  | .refuse r => .refused r

/-- `s` where the very next step runs the table word `w`. The block fetches nothing (20_memory R59): a command, an
event or an internal step is offered and enabled, a µop is put at the head of UQ (log 1). -/
def State.withFetchWord (s : State) (nbits w : Nat) : State := placeTableWord s nbits w

end Sys2Proof.Machine
end

