-- ==== Sys2Proof/Machine/RegisterMap.lean ====
section
/-! DEFINITION. The host register space, a read-only view of the state (10_state R42, R43). A read is an
observation, not a step. -/

namespace Sys2Proof.Machine

/-- The codes of ENG_STATE (10_state R14). -/
def EngState.code : EngState → BitVec 3
  | .idle => 0
  | .setting => 1
  | .counting => 2
  | .unlocking => 3
  | .terminal => 4
  | .error => 5

/-- The code of MODE (10_state R15). -/
def CountMode.code : CountMode → BitVec 1
  | .down => 0
  | .up => 1

/-- The codes of PAGE (10_state R19). -/
def Page.code : Page → BitVec 2
  | .time => 0
  | .days => 1
  | .blank => 2

/-- The codes of UNIT (10_state R21). -/
def TimeUnit.code : TimeUnit → BitVec 2
  | .seconds => 0
  | .hours => 1
  | .days => 2
  | .years => 3

/-- The code of BANK (10_state R32). -/
def Buffer.code : Buffer → BitVec 1
  | .primary => 0
  | .alternate => 1

/-- The codes of BLINK (10_state R32). -/
def BlinkMode.code : BlinkMode → BitVec 2
  | .none => 0
  | .perSegment => 1
  | .allSegments => 2
  | .autoAlternate => 3

/-- The code of CONFIG (00_scope R6). -/
def configCode : Deployment → BitVec 1
  | .countdownUnlock => 0
  | .elapsedSinceLaunch => 1

/-- A one-bit field. -/
def bit (b : Bool) : BitVec 1 := BitVec.ofBool b

/-- Three bits, bit i input i (10_state R42). -/
def InputBits.code (b : InputBits) : BitVec 3 := bit b.trig ++ bit b.inc ++ bit b.adv

/-- 0x000 STATUS, from bit 15 down (10_state R42). -/
def statusReg (s : State) : BitVec 32 :=
  (configCode s.params.config ++ bit s.cacheValid ++ bit s.wpFault ++ s.rejectReason ++ bit s.cmdReject
    ++ bit s.tickLost ++ bit s.busy ++ s.errCode ++ s.mode.code ++ s.eng.code).setWidth 32

/-- 0x001 TIME, from bit 25 down (10_state R42). -/
def timeReg (s : State) : BitVec 32 := (s.page.code ++ 0#3 ++ s.hr ++ 0#2 ++ s.min ++ 0#2 ++ s.sec).setWidth 32

/-- 0x003 CENTURY, from bit 16 down (10_state R42). -/
def centuryReg (s : State) : BitVec 32 := (bit s.midf ++ s.cent).setWidth 32

/-- 0x004 SETTING, from bit 27 down (10_state R42). -/
def settingReg (s : State) : BitVec 32 :=
  (s.setting.dig.get 4 ++ s.setting.dig.get 3 ++ s.setting.dig.get 2 ++ s.setting.dig.get 1 ++ s.setting.dig.get 0
    ++ 0#1 ++ BitVec.ofNat 3 s.setting.cursor.val ++ 0#2 ++ s.setting.unit.code).setWidth 32

/-- 0x005 INPUT, from bit 26 down (10_state R42). -/
def inputReg (s : State) : BitVec 32 :=
  (s.debSet.code ++ 0#3 ++ bit s.debActive ++ 0#1 ++ s.armed.code ++ 0#1 ++ s.edge.code ++ 0#1 ++ s.ie.code
    ++ 0#1 ++ s.ifg.code ++ 0#1 ++ s.pin.code).setWidth 32

/-- 0x006 TICK, from bit 1 down (10_state R42). -/
def tickReg (s : State) : BitVec 32 := (bit s.tickIe ++ bit s.tickIfg).setWidth 32

/-- 0x007 DISPCTL, from bit 4 down (10_state R42). -/
def dispCtlReg (s : State) : BitVec 32 :=
  (bit s.wp ++ bit s.display.lcdOn ++ s.display.blink.code ++ s.display.bank.code).setWidth 32

/-- A host register read at a word address; every unlisted address reads 0 (10_state R42, R43). -/
def hostRead (s : State) (a : Nat) : BitVec 32 :=
  if a = 0x000 then statusReg s
  else if a = 0x001 then timeReg s
  else if a = 0x002 then s.days
  else if a = 0x003 then centuryReg s
  else if a = 0x004 then settingReg s
  else if a = 0x005 then inputReg s
  else if a = 0x006 then tickReg s
  else if a = 0x007 then dispCtlReg s
  else if a = 0x008 then s.tsLatch.extractLsb' 0 32
  else if a = 0x009 then (s.tsLatch.extractLsb' 32 16).setWidth 32
  else if a = 0x00A then (BitVec.ofNat 16 s.uq.length).setWidth 32
  else if 0x010 ≤ a ∧ a < 0x010 + Config.dispWords then (s.display.read .primary (a - 0x010)).setWidth 32
  else if 0x020 ≤ a ∧ a < 0x020 + Config.dispWords then (s.display.read .alternate (a - 0x020)).setWidth 32
  else if 0x040 ≤ a ∧ a < 0x040 + Config.durWords then (s.dur.read (a - 0x040)).setWidth 32
  else if 0x100 ≤ a ∧ a < 0x100 + 60 then (s.cache.wordFor .sec (a - 0x100)).setWidth 32
  else if 0x140 ≤ a ∧ a < 0x140 + 60 then (s.cache.wordFor .min (a - 0x140)).setWidth 32
  else if 0x180 ≤ a ∧ a < 0x180 + 24 then (s.cache.wordFor .hr (a - 0x180)).setWidth 32
  else 0

end Sys2Proof.Machine
end

