-- ==== Sys2Proof/Safety.lean ====
section
/-! DEFINITION. What statements speak of: the invariant of the reachable states (10_state R45 and what it needs to
be kept by every step), the observations of the records, and runs of µops. -/

namespace Sys2Proof.Machine

/-! ### Legal registers (10_state R17, R18, R22, R45 (a), (b), (d)) -/

/-- `SEC <= 59`, `MIN <= 59`, `HR <= 23` (10_state R45 (a)). -/
abbrev State.TimeLegal (s : State) : Prop := s.sec.toNat ≤ 59 ∧ s.min.toNat ≤ 59 ∧ s.hr.toNat ≤ 23

/-- COUNTING(CountUp) holds fewer than LONG_NOW_DAYS days (10_state R45 (b)). -/
abbrev State.DaysLegal (s : State) : Prop :=
  s.eng = .counting ∧ s.mode = .up → s.days.toNat < Config.longNowDays

/-- Every digit is at most 9 (10_state R22). -/
abbrev Setting.DigitsLegal (t : Setting) : Prop := ∀ k : Fin 5, t.digit k ≤ 9

/-- The years cap: in YEARS the two highest digits are 0, the hundreds digit at most 1, and a hundreds digit of 1
leaves the lower digits 0 (43_input R134). -/
abbrev Setting.YearsCapped (t : Setting) : Prop :=
  t.unit = .years →
    t.digit 3 = 0 ∧ t.digit 4 = 0 ∧ t.digit 2 ≤ 1 ∧ (t.digit 2 = 1 → t.digit 0 = 0 ∧ t.digit 1 = 0)

/-! ### The µop queue and the durable memory (42_durable R115, R117, R119, R121) -/

/-- The µop writes none of the reserved words 0x19..0x1F and none outside the memory, or emits a defined event
(20_memory R53, 30_encoding R68). -/
def uopLegal : Uop → Bool
  | .dww a _ => decide (a.toNat < 0x19)
  | .wpu => true
  | .wpl => true
  | .emit e => eventCodeOk e

/-- The µop writes a word of record r (42_durable R112). -/
def uopWrites (r : Record) : Uop → Bool
  | .dww a _ => decide (r.base ≤ a.toNat) && decide (a.toNat ≤ r.base + 2 * r.size)
  | .wpu => false
  | .wpl => false
  | .emit _ => false

/-- From write protection `wp`, the queue writes only while unprotected and ends protected (20_memory R54). -/
def bracketed : Bool → List Uop → Bool
  | wp, [] => wp
  | wp, .dww _ _ :: us => !wp && bracketed wp us
  | _, .wpu :: us => bracketed false us
  | _, .wpl :: us => bracketed true us
  | wp, .emit _ :: us => bracketed wp us

/-- The reserved durable words keep their manufacture value 0 (20_memory R53). -/
abbrev Memory.ReservedZero (m : Memory) : Prop := ∀ a : Nat, 0x19 ≤ a → m.read a = 0

/-- The canonical durable memory, its reserved words 0, and a queue that keeps both and writes only while
unprotected. -/
abbrev State.DurableLegal (s : State) : Prop :=
  s.dur.wf = true ∧ s.dur.ReservedZero ∧ (∀ u ∈ s.uq, uopLegal u = true) ∧ bracketed s.wp s.uq = true

/-- `DEB_ACTIVE = 1` implies that UQ is empty (10_state R45 (c)). -/
abbrev State.SettleQuiet (s : State) : Prop := s.debActive = true → s.uq = []

/-! ### Enables, cache and one-shot (10_state R45 (e), (f), 40_display R87, R88) -/

/-- In IDLE every enable is 0 (10_state R45 (e)). -/
abbrev State.IdleDisabled (s : State) : Prop := s.eng = .idle → s.tickIe = false ∧ s.ie = InputBits.zero

/-- In every engine state past a successful BOOT the word cache is valid, and a valid cache is the cache of the
segment map (40_display R87, R88). -/
abbrev State.CacheLegal (s : State) : Prop :=
  (s.eng = .setting ∨ s.eng = .counting ∨ s.eng = .unlocking ∨ s.eng = .terminal → s.cacheValid = true)
    ∧ (s.cacheValid = true → layoutOk s.params.segMap = true ∧ s.cache = cacheWords s.params.segMap)

/-- The one-shot: in CONFIG 1 an enabled trigger means that the launch flag reads 0 and no queued µop writes its
record (10_state R45 (f)). -/
abbrev State.OneShot (s : State) : Prop :=
  s.params.config = .elapsedSinceLaunch ∧ s.ie.trig = true →
    s.dur.flagSet .lflag = false ∧ ∀ u ∈ s.uq, uopWrites .lflag u = false

/-- COUNTING and UNLOCKING hold the time page: the primary buffer's field words are the cache words of SEC, MIN and
HR (41_engine R98, R99, R102; 95_test_vectors W2). -/
abbrev State.TimeShown (s : State) : Prop :=
  s.eng = .counting ∨ s.eng = .unlocking →
    s.display.read .primary (fieldWord s.params.segMap .sec) = s.cache.wordFor .sec s.sec.toNat
      ∧ s.display.read .primary (fieldWord s.params.segMap .min) = s.cache.wordFor .min s.min.toNat
      ∧ s.display.read .primary (fieldWord s.params.segMap .hr) = s.cache.wordFor .hr s.hr.toNat

/-- The invariant of the block. It holds at reset and every step keeps it, whatever the environment offers. -/
structure State.Inv (s : State) : Prop where
  time : s.TimeLegal
  days : s.DaysLegal
  digits : s.setting.DigitsLegal
  years : s.setting.YearsCapped
  durable : s.DurableLegal
  settle : s.SettleQuiet
  idle : s.IdleDisabled
  cache : s.CacheLegal
  oneShot : s.OneShot
  shown : s.TimeShown

/-! ### Enabling, in the spec's own terms (60_exceptions R147) -/

/-- UQ is empty and DEB_ACTIVE is 0: no handler is in progress (00_scope R13, Quiescent). -/
abbrev State.Quiescent (s : State) : Prop := s.uq = [] ∧ s.debActive = false

/-- TICK_DISPATCH is enabled (41_engine R96). -/
abbrev State.TickEnabled (s : State) : Prop := s.Quiescent ∧ s.tickIfg = true ∧ s.tickIe = true

/-- INPUT_ENTRY is enabled (43_input R126). -/
abbrev State.EntryEnabled (s : State) : Prop :=
  s.Quiescent ∧ ¬(s.tickIfg = true ∧ s.tickIe = true) ∧ ∃ i : Input, s.ifg.get i = true ∧ s.ie.get i = true

/-- SETTLE_DONE is enabled (43_input R127). -/
abbrev State.SettleEnabled (s : State) : Prop := s.uq = [] ∧ s.debActive = true

/-- HOST_CMD is enabled (44_host R136). -/
abbrev State.CommandEnabled (s : State) : Prop :=
  s.Quiescent ∧ ¬(s.tickIfg = true ∧ s.tickIe = true) ∧ ∀ i : Input, ¬(s.ifg.get i = true ∧ s.ie.get i = true)

/-- SETTLE_DONE confirms an armed trigger press: the snapshot holds TRIG, a press is awaited, the pin is still at the
pressed level (43_input R127). -/
abbrev State.TriggerConfirmed (s : State) : Prop :=
  s.debSet.trig = true ∧ s.edge.trig = false ∧ s.pin.trig = false ∧ s.armed.trig = true

/-- The label whose effect a step of `i` has: UOP_STEP has that of the head of UQ (42_durable R120). -/
def performed (i : Instr) (s : State) : Instr :=
  match i, s.uq with
  | .uopStep, u :: _ => u.toInstr
  | i, _ => i

/-! ### What the display and the time say -/

/-- The time registers as a number of seconds (41_engine R100). -/
def State.totalSeconds (s : State) : Nat :=
  86400 * s.days.toNat + 3600 * s.hr.toNat + 60 * s.min.toNat + s.sec.toNat

/-- Position p of buffer b shows glyph g: every segment's bit is the glyph's (40_display R79). -/
abbrev Display.Shows (m : SegMap) (d : Display) (b : Buffer) (p : Fin 6) (g : Glyph) : Prop :=
  ∀ k : Fin 7, (d.read b (segAt m p k).word).getLsbD (segAt m p k).bit = g.getLsbD k.val

/-- Every display bit that is no segment's is 0, in both buffers (40_display R84 and what the painters leave). -/
abbrev Display.OnlySegments (m : SegMap) (d : Display) : Prop :=
  ∀ (b : Buffer) (w k : Nat), (∀ (p : Fin 6) (x : Fin 7), ¬(w = (segAt m p x).word ∧ k = (segAt m p x).bit)) →
    (d.read b w).getLsbD k = false

/-- The display control registers are as given. -/
abbrev Display.Controls (d : Display) (bank : Buffer) (blink : BlinkMode) (on : Bool) : Prop :=
  d.bank = bank ∧ d.blink = blink ∧ d.lcdOn = on

/-- The setting page of 40_display R92: unit at position 0, `DIG[p - 1]` at 1..5, the alternate buffer dark but for
the cursor's glyph, blinking perSegment. -/
abbrev Display.SettingPage (m : SegMap) (t : Setting) (d : Display) : Prop :=
  d.Shows m .primary 0 (unitGlyph t.unit)
    ∧ (∀ k : Fin 5, d.Shows m .primary k.succ (digitGlyph (t.digit k)))
    ∧ (∀ p : Fin 6, p ≠ t.cursor → d.Shows m .alternate p 0)
    ∧ (t.cursor = 0 → d.Shows m .alternate 0 (unitGlyph t.unit))
    ∧ (∀ k : Fin 5, t.cursor = k.succ → d.Shows m .alternate k.succ (digitGlyph (t.digit k)))
    ∧ d.Controls .primary .perSegment true

/-- The day page of 40_display R91 in the alternate buffer. -/
abbrev Display.DayPage (m : SegMap) (n : Nat) (d : Display) : Prop :=
  ∀ p : Fin 6,
    (p.val = 0 ∨ 10 ^ p.val ≤ n → d.Shows m .alternate p (digitGlyph (n / 10 ^ p.val % 10)))
      ∧ (p.val ≠ 0 ∧ n < 10 ^ p.val → d.Shows m .alternate p 0)

/-- The time page of `sec`, `min`, `hr` in the primary buffer, digit by digit (40_display R76, R86). -/
abbrev Display.TimePage (m : SegMap) (sec min hr : Nat) (d : Display) : Prop :=
  d.Shows m .primary 0 (digitGlyph (sec % 10)) ∧ d.Shows m .primary 1 (digitGlyph (sec / 10))
    ∧ d.Shows m .primary 2 (digitGlyph (min % 10)) ∧ d.Shows m .primary 3 (digitGlyph (min / 10))
    ∧ d.Shows m .primary 4 (digitGlyph (hr % 10)) ∧ d.Shows m .primary 5 (digitGlyph (hr / 10))

/-- The terminal page of 40_display R93: "999999" blinking. -/
abbrev Display.TerminalPage (m : SegMap) (d : Display) : Prop :=
  (∀ p : Fin 6, d.Shows m .primary p (digitGlyph 9) ∧ d.Shows m .alternate p 0)
    ∧ d.Controls .primary .allSegments true

/-- The error page of 40_display R94: "Err  c" blinking. -/
abbrev Display.ErrorPage (m : SegMap) (code : Nat) (d : Display) : Prop :=
  d.Shows m .primary 5 (glyph .hexE) ∧ d.Shows m .primary 4 (glyph .letterR) ∧ d.Shows m .primary 3 (glyph .letterR)
    ∧ d.Shows m .primary 2 0 ∧ d.Shows m .primary 1 0 ∧ d.Shows m .primary 0 (digitGlyph code)
    ∧ (∀ p : Fin 6, d.Shows m .alternate p 0) ∧ d.Controls .primary .allSegments true

/-- The century bookkeeping of a rollover to `days` days, from state s to state t (41_engine R103). -/
abbrev CenturyBooked (days : Nat) (s t : State) : Prop :=
  (36525 ≤ days - s.cent.toNat * 36525 →
      t.cent = s.cent + 1 ∧ t.midf = false ∧ t.uq = s.uq ++ s.dur.recordUops .crec [s.cent + 1, 0])
    ∧ (days - s.cent.toNat * 36525 < 36525 → 18263 ≤ days - s.cent.toNat * 36525 → s.midf = false →
      t.cent = s.cent ∧ t.midf = true ∧ t.uq = s.uq ++ s.dur.recordUops .crec [s.cent, 1])
    ∧ (days - s.cent.toNat * 36525 < 36525 → days - s.cent.toNat * 36525 < 18263 ∨ s.midf = true →
      t.cent = s.cent ∧ t.midf = s.midf ∧ t.uq = s.uq)

/-- The UNLOCK events emitted so far or queued (41_engine R99). -/
def State.unlocks (s : State) : Nat := s.out.count eventUnlock + s.uq.count (.emit eventUnlock)

/-! ### Runs -/

/-- `k` UOP_STEPs in order, with no other step between them (42_durable R120); it stops early at an empty queue or a
refused µop. -/
def runUops : Nat → State → State
  | 0, s => s
  | k + 1, s =>
    match exec .uopStep s with
    | .next s' => runUops k s'
    | .fault _ => s
    | .refused _ => s

/-- The labels executed in order, stopping at the first fault or refusal (30_encoding R71). -/
def execAll : List Instr → State → Result
  | [], s => .next s
  | i :: is, s =>
    match exec i s with
    | .next s' => execAll is s'
    | .fault f => .fault f
    | .refused r => .refused r

/-- `n` bounces of input i away from level `lvl` and back (30_encoding R71, 43_input R129). -/
def bounces (i : Input) (lvl : Bool) : Nat → List Instr
  | 0 => []
  | n + 1 => .pinChange i (!lvl) :: .pinChange i lvl :: bounces i lvl n

/-- The match and mask of each row of spec/opcode_table.json. -/
def opcodeRows : List (Label × Label) :=
  [ (0x0100000000000000, 0xFFFF000000000000), (0x0200000000000000, 0xFFFFFFFFFFFFFFFF),
    (0x0300000000000000, 0xFFFF000000000000), (0x0400000000000000, 0xFFFF000000000000),
    (0x0500000000000000, 0xFFFFFFFFFFFFFFFF), (0x1100000000000000, 0xFFFFFFFFFFFFFFFF),
    (0x1200000000000000, 0xFFFFFFFFFFFFFEFC), (0x1300000000000000, 0xFFFFFFFFFFFFFFFF),
    (0x2100000000000000, 0xFFFFFFFFFFFFFFFF), (0x2200000000000000, 0xFFFFFFFFFFFFFFFF),
    (0x2300000000000000, 0xFFFFFFFFFFFFFFFF), (0x2400000000000000, 0xFFFFFFFFFFFFFFFF),
    (0x3100000000000000, 0xFFFFFFFFFF000000), (0x3200000000000000, 0xFFFFFFFFFFFFFFFF),
    (0x3300000000000000, 0xFFFFFFFFFFFFFFFF), (0x3400000000000000, 0xFFFFFFFFFFFFFF00) ]

end Sys2Proof.Machine
end

