-- ==== Sys2Proof/Certificates/Slice0/Obligations.lean ====
section
/-! DEFINITION. The statements about the block, for the provers. A pattern used throughout: the next state t of an
instruction is written as the old state with only the fields that the spec says the instruction writes taken from t,
`t = { s with … := t.… }`, which is the instruction's frame: every other register, every flag, every word of durable
memory, the queue, OUT and the parameters are unchanged. -/

open Sys2Proof Sys2Proof.Machine

/-! ### Encoding (30_encoding) -/

/-- Decoding the encoding of a well-formed label gives it back (30_encoding R60, R67). -/
def Obligations.DecodeOfEncodeIsIdentity : Prop :=
  ∀ i : Instr, i.wellFormed = true → decode (encode i) = .ok i

/-- A word that decodes is the encoding of what it decodes to: no bit of a word is ignored (30_encoding R60, R68). -/
def Obligations.EncodeOfDecodeIsIdentity : Prop :=
  ∀ (w : Label) (i : Instr), decode w = .ok i → encode i = w

/-- Words written out from 30_encoding R67 decode to the operations they stand for. -/
def Obligations.WrittenOutWordsDecode : Prop :=
  decode 0x0100251111120000 = .ok (.boot 0x251111120000)
    ∧ decode 0x0500000000000000 = .ok .clearStatus
    ∧ decode 0x1200000000000101 = .ok (.pinChange .inc true)
    ∧ decode 0x2400000000000000 = .ok .uopStep
    ∧ decode 0x31000000000A1112 = .ok (.dww 0x0A 0x1112)
    ∧ decode 0x3400000000000002 = .ok (.emit 2)

/-- The words that decode are exactly those a row of spec/opcode_table.json matches, less the two reserved operand
values: PIN_CHANGE with input index 3 and EMIT with a code other than 1 or 2 (30_encoding R67, R68). -/
def Obligations.DecodableWordsAreTheOpcodeTable : Prop :=
  ∀ w : Label,
    (∃ i, decode w = .ok i) ↔
      (∃ r ∈ opcodeRows, w &&& r.2 = r.1)
        ∧ ¬(w &&& 0xFFFFFFFFFFFFFEFC = 0x1200000000000000 ∧ w &&& 3 = 3)
        ∧ ¬(w &&& 0xFFFFFFFFFFFFFF00 = 0x3400000000000000 ∧ w &&& 0xFF ≠ 1 ∧ w &&& 0xFF ≠ 2)

/-! ### Scheduling (60_exceptions R147) -/

/-- A step runs the label that is offered: an event or an internal step at once, a command when the port is ready, and
otherwise the block's own next step with the word still offered; a µop word is never a step (30_encoding R65). Of the
words that do not decode, one of CLASS 1 to 15 is no step, and one of CLASS 0 is rejected with reason 1 once the port
is ready (30_encoding R68, 44_host R136). That what happens next stands in `offers` (log 1), that a waiting command lets
the block's own step run (log 10), and the names of the two refusals (log 11) are the model's choice. -/
def Obligations.StepRunsTheOfferedLabel : Prop :=
  ∀ (s : State) (w : Label) (rest : List Offer), s.offers = .label w :: rest →
    (∀ i : Instr, decode w = .ok i →
      (i.labelClass = .event ∨ i.labelClass = .internal → step s = exec i { s with offers := rest })
        ∧ (i.labelClass = .command → s.CommandEnabled → step s = exec i { s with offers := rest })
        ∧ (i.labelClass = .command → ¬s.CommandEnabled → ∃ k, s.ownStep = some k ∧ step s = exec k.toInstr s)
        ∧ (i.labelClass = .uop → step s = .refused .uopIsNoStep))
      ∧ ((¬∃ i, decode w = .ok i) →
        (w.extractLsb' 60 4 ≠ 0 → step s = .refused .reservedLabel)
          ∧ (w.extractLsb' 60 4 = 0 → s.CommandEnabled →
            step s = .next { s with offers := rest, cmdReject := true, rejectReason := 1 })
          ∧ (w.extractLsb' 60 4 = 0 → ¬s.CommandEnabled → ∃ k, s.ownStep = some k ∧ step s = exec k.toInstr s))

/-- A word written to the command port: a command runs, any other word is refused with reason 1 and nothing else
changes, and while HOST_CMD is not enabled the host waits (44_host R136, 30_encoding R68). That the word stands in
`offers` (log 1) and that the block's own step runs while the host waits (log 10) are the model's choice. -/
def Obligations.CommandPortRunsOrRejects : Prop :=
  ∀ (s : State) (w : Label) (rest : List Offer), s.offers = .port w :: rest →
    (s.CommandEnabled → ∀ i, decode w = .ok i → i.labelClass = .command → step s = exec i { s with offers := rest })
      ∧ (s.CommandEnabled → (¬∃ i, decode w = .ok i ∧ i.labelClass = .command) →
          step s = .next { s with offers := rest, cmdReject := true, rejectReason := 1 })
      ∧ (¬s.CommandEnabled → ∃ k, s.ownStep = some k ∧ step s = exec k.toInstr s)

/-- With nothing offered the block takes the first enabled of UOP_STEP, SETTLE_DONE, TICK_DISPATCH and INPUT_ENTRY,
and sleeps when none is (60_exceptions R147, R160; that sleeping is a step that changes nothing is the model's choice,
log 14). -/
def Obligations.OwnStepFollowsThePriority : Prop :=
  ∀ s : State, s.offers = [] →
    (s.uq ≠ [] → step s = exec .uopStep s)
      ∧ (s.SettleEnabled → step s = exec .settleDone s)
      ∧ (s.TickEnabled → step s = exec .tickDispatch s)
      ∧ (s.EntryEnabled → step s = exec .inputEntry s)
      ∧ (s.CommandEnabled → step s = .next s)

/-- No handler starts, and no command runs, while another handler's work is unfinished; and no step runs where it is not
enabled: each internal step and each command stops everywhere else, whatever the reason (43_input R126, R127, 41_engine
R96, 42_durable R120, 44_host R136, 60_exceptions R147, R150). The names of the stops are the model's choice, log 10. -/
def Obligations.HandlersNeverNest : Prop :=
  ∀ s : State,
    (s.uq ≠ [] ∨ s.debActive = true →
      exec .tickDispatch s = .fault .stepNotEnabled ∧ exec .inputEntry s = .fault .stepNotEnabled
        ∧ ∀ i : Instr, i.labelClass = .command → exec i s = .fault .commandPortNotReady)
      ∧ (s.uq = [] → exec .uopStep s = .fault .stepNotEnabled)
      ∧ (¬s.SettleEnabled → exec .settleDone s = .fault .stepNotEnabled)
      ∧ (¬s.TickEnabled → exec .tickDispatch s = .fault .stepNotEnabled)
      ∧ (¬s.EntryEnabled → exec .inputEntry s = .fault .stepNotEnabled)
      ∧ (¬s.CommandEnabled → ∀ i : Instr, i.labelClass = .command → exec i s = .fault .commandPortNotReady)

/-! ### Host commands (44_host) -/

/-- BOOT in IDLE, with a layout that passes the self-check and no launch to restore, enters SETTING: the word cache
built, the pending flags cleared, every enable set, the display cleared and the setting page shown (44_host R137,
40_display R84, R92). -/
def Obligations.BootEntersSetting : Prop :=
  ∀ (p : Stamp) (s : State),
    s.CommandEnabled → s.eng = .idle → layoutOk s.params.segMap = true →
    ¬(s.params.config = .elapsedSinceLaunch ∧ s.dur.flagSet .lflag = true) →
      ∃ t, exec (.boot p) s = .next t
        ∧ t = { s with
            eng := .setting, cacheValid := true, ifg := ⟨false, false, false⟩, tickIfg := false
            ie := ⟨true, true, true⟩, tickIe := true, cache := t.cache, display := t.display }
        ∧ t.cache = cacheWords s.params.segMap
        ∧ t.display.SettingPage s.params.segMap s.setting ∧ t.display.OnlySegments s.params.segMap

/-- BOOT in IDLE with a layout that fails the self-check enters ERROR(1) with no enable set and no cache built,
the display cleared but for segment bits (44_host R137, 40_display R77, R84). For a map with a word number of 3 or more
or a bit number of 16 or more, that the painter's accesses outside the display memory change none of its bits is the
model's choice, log 8. -/
def Obligations.BootOfABadLayoutIsErrorOne : Prop :=
  ∀ (p : Stamp) (s : State), s.CommandEnabled → s.eng = .idle → layoutOk s.params.segMap = false →
    ∃ t, exec (.boot p) s = .next t
      ∧ t = { s with eng := .error, errCode := 1, display := t.display }
      ∧ t.display.Controls .primary .allSegments true ∧ t.display.OnlySegments s.params.segMap

/-- BOOT of a launched device with a payload that is no valid date enters ERROR(2), with the trigger disabled, the
other enables set, the display cleared and the error page shown (44_host R137, 41_engine R110, R111, 40_display R84,
R94). -/
def Obligations.BootOfABadClockIsErrorTwo : Prop :=
  ∀ (p : Stamp) (s : State),
    s.CommandEnabled → s.eng = .idle → layoutOk s.params.segMap = true →
    s.params.config = .elapsedSinceLaunch → s.dur.flagSet .lflag = true → validTs p = false →
      ∃ t, exec (.boot p) s = .next t
        ∧ t = { s with
            eng := .error, errCode := 2, cacheValid := true, ifg := ⟨false, false, false⟩, tickIfg := false
            ie := ⟨true, true, false⟩, armed := ⟨s.armed.adv, s.armed.inc, false⟩, tickIe := true
            cache := t.cache, display := t.display }
        ∧ t.cache = cacheWords s.params.segMap
        ∧ t.display.ErrorPage s.params.segMap 2 ∧ t.display.OnlySegments s.params.segMap

/-- BOOT of a launched device with a valid date restores the count: the century pair read from CREC and corrected by
the RTC year, the days of the date, the time of day; TERMINAL once the days reach LONG_NOW_DAYS (41_engine R111). A
restore that finds an interrupted CREC write queues its repair (44_host R137, 70_reset_and_hazards R164): a correction's
write holds it (42_durable R117), and without a correction it is queued alone; that it then is the repair phase in the
WPU/WPL bracket, and nothing more, is the model's choice, log 21. -/
def Obligations.BootRestoresALaunchedDevice : Prop :=
  ∀ (p : Stamp) (s : State),
    s.CommandEnabled → s.eng = .idle → layoutOk s.params.segMap = true →
    s.params.config = .elapsedSinceLaunch → s.dur.flagSet .lflag = true → validTs p = true →
      let c := s.dur.readCentury.1
      let m := s.dur.readCentury.2
      let f := stampFields p
      ∃ t, exec (.boot p) s = .next t
        ∧ t = { s with
            eng := t.eng, mode := t.mode, sec := t.sec, min := t.min, hr := t.hr, days := t.days, page := .time
            cent := t.cent, midf := t.midf, uq := t.uq
            cacheValid := true, ifg := ⟨false, false, false⟩, tickIfg := false
            ie := ⟨true, true, false⟩, armed := ⟨s.armed.adv, s.armed.inc, false⟩, tickIe := true
            cache := t.cache, display := t.display }
        ∧ (m = true ∧ f.yy < 50 →
            t.cent = c + 1 ∧ t.midf = false ∧ t.uq = s.uq ++ s.dur.recordUops .crec [c + 1, 0])
        ∧ (m = false ∧ 50 ≤ f.yy → t.cent = c ∧ t.midf = true ∧ t.uq = s.uq ++ s.dur.recordUops .crec [c, 1])
        ∧ (¬(m = true ∧ f.yy < 50) → ¬(m = false ∧ 50 ≤ f.yy) →
            t.cent = c ∧ t.midf = m
              ∧ (s.dur.read 0x00 = 0 → t.uq = s.uq)
              ∧ (s.dur.read 0x00 ≠ 0 → t.uq = s.uq ++
                  [.wpu, .dww 0x01 (s.dur.read 0x03), .dww 0x02 (s.dur.read 0x04), .dww 0x00 0, .wpl]))
        ∧ (t.cent.toNat * 36525 + rtcDays f.yy f.mm f.dd < 1000000 →
            t.eng = .counting ∧ t.mode = .up ∧ t.days.toNat = t.cent.toNat * 36525 + rtcDays f.yy f.mm f.dd
              ∧ t.hr.toNat = f.hh ∧ t.min.toNat = f.mi ∧ t.sec.toNat = f.ss
              ∧ t.display.TimePage s.params.segMap f.ss f.mi f.hh
              ∧ t.display.DayPage s.params.segMap t.days.toNat ∧ t.display.Controls .primary .none true)
        ∧ t.display.OnlySegments s.params.segMap
        ∧ (1000000 ≤ t.cent.toNat * 36525 + rtcDays f.yy f.mm f.dd →
            t.eng = .terminal ∧ t.mode = s.mode ∧ t.totalSeconds = 0 ∧ t.display.TerminalPage s.params.segMap)

/-- A command offered in a state where it is not legal is refused with reason 2 and changes nothing else; in every
other state it is not (44_host R142). -/
def Obligations.CommandsAreLegalPerTheTable : Prop :=
  ∀ (p : Stamp) (s : State), s.CommandEnabled →
    let rejected := Host.Outcome.next (φ := Fault) (ρ := Refusal) { s with cmdReject := true, rejectReason := 2 }
    let accepted := fun i : Instr => ∃ t, exec i s = .next t ∧ (t.rejectReason = 2 → s.rejectReason = 2)
    (s.eng ≠ .idle → exec (.boot p) s = rejected) ∧ (s.eng = .idle → accepted (.boot p))
      ∧ (s.eng ≠ .unlocking → exec .unlockDone s = rejected) ∧ (s.eng = .unlocking → accepted .unlockDone)
      ∧ (s.eng = .idle ∨ s.eng = .terminal ∨ s.eng = .error → exec (.commission p) s = rejected)
      ∧ (s.eng = .setting ∨ s.eng = .counting ∨ s.eng = .unlocking → accepted (.commission p))
      ∧ accepted (.setTsLatch p) ∧ accepted .clearStatus

/-- UNLOCK_DONE in UNLOCKING returns to SETTING with the setting page of the kept UNIT, DIG and CURSOR (44_host R138). -/
def Obligations.UnlockDoneReturnsToSetting : Prop :=
  ∀ s : State, s.CommandEnabled → s.eng = .unlocking → layoutOk s.params.segMap = true →
    ∃ t, exec .unlockDone s = .next t
      ∧ t = { s with eng := .setting, display := t.display }
      ∧ t.display.SettingPage s.params.segMap s.setting

/-- COMMISSION of a device not yet commissioned queues the commission timestamp's write and then the commission
flag's, and nothing else; of a commissioned one it is refused with reason 3 (44_host R139). -/
def Obligations.CommissionQueuesBothRecords : Prop :=
  ∀ (p : Stamp) (s : State),
    s.CommandEnabled → s.eng = .setting ∨ s.eng = .counting ∨ s.eng = .unlocking →
      (s.dur.flagSet .cflag = false →
        exec (.commission p) s = .next { s with
          uq := s.dur.recordUops .cts [p.extractLsb' 0 16, p.extractLsb' 16 16, p.extractLsb' 32 16]
            ++ s.dur.recordUops .cflag [1] })
        ∧ (s.dur.flagSet .cflag = true →
          exec (.commission p) s = .next { s with cmdReject := true, rejectReason := 3 })

/-- SET_TS_LATCH writes TS_LATCH only, in every engine state (44_host R140). -/
def Obligations.SetTsLatchWritesTheLatch : Prop :=
  ∀ (p : Stamp) (s : State), s.CommandEnabled → exec (.setTsLatch p) s = .next { s with tsLatch := p }

/-- CLEAR_STATUS clears the four sticky fields only, in every engine state (44_host R141). -/
def Obligations.ClearStatusClearsStickyFlags : Prop :=
  ∀ s : State, s.CommandEnabled →
    exec .clearStatus s =
      .next { s with tickLost := false, cmdReject := false, rejectReason := 0, wpFault := false }

/-! ### Environment events (60_exceptions) -/

/-- TICK_EDGE sets TICK_IFG, and TICK_LOST when a tick was already pending, in every state (60_exceptions R144). -/
def Obligations.TickEdgeSetsTheFlag : Prop :=
  ∀ s : State,
    (s.tickIfg = false → exec .tickEdge s = .next { s with tickIfg := true })
      ∧ (s.tickIfg = true → exec .tickEdge s = .next { s with tickLost := true })

/-- PIN_CHANGE sets the pin and, exactly on the awaited transition, the input's flag, whatever IE holds; a change to
the same level is no step (60_exceptions R145; the name of that stop is the model's choice, log 10). -/
def Obligations.PinChangeLatchesTheAwaitedEdge : Prop :=
  ∀ (i : Input) (lvl : Bool) (s : State),
    (s.pin.get i = lvl → exec (.pinChange i lvl) s = .fault .pinLevelUnchanged)
      ∧ (s.pin.get i ≠ lvl →
        ∃ t, exec (.pinChange i lvl) s = .next t
          ∧ t = { s with pin := t.pin, ifg := t.ifg }
          ∧ t.pin.get i = lvl ∧ (∀ j, j ≠ i → t.pin.get j = s.pin.get j ∧ t.ifg.get j = s.ifg.get j)
          ∧ (s.edge.get i = lvl → t.ifg.get i = true) ∧ (s.edge.get i ≠ lvl → t.ifg.get i = s.ifg.get i))

/-- POWER_LOSS gives every volatile element its reset value and discards the queue; DUR and OUT keep their values and
PIN the environment's levels (60_exceptions R146, 10_state R44). The display memory and the word cache are left
unspecified, and the statement says nothing of them. -/
def Obligations.PowerLossResetsVolatileState : Prop :=
  ∀ s : State, ∃ t, exec .powerLoss s = .next t
    ∧ t = { State.reset with
        params := s.params, pin := s.pin, dur := s.dur, out := s.out, offers := s.offers
        cache := t.cache, display := t.display, powerUps := t.powerUps }
    ∧ t.display.Controls .primary .none false

/-! ### The time engine (41_engine) -/

/-- A countdown tick with time left takes one second off: the registers stay in range, UNLOCKING is entered with one
UNLOCK queued exactly when the whole time reaches zero, and while no borrow happens one word is stored; no display
word but the three field words is written (41_engine R98, R99). That a field word is stored whatever CACHE_VALID holds,
which is 1 in every run here, is the model's choice, log 16 (40_display R88). -/
def Obligations.CountdownTickTakesOneSecond : Prop :=
  ∀ s : State, s.TickEnabled → s.eng = .counting → s.mode = .down → s.TimeLegal → 0 < s.totalSeconds →
    ∃ t, exec .tickDispatch s = .next t
      ∧ t = { s with
          tickIfg := false, sec := t.sec, min := t.min, hr := t.hr, days := t.days, eng := t.eng, uq := t.uq
          display := { s.display with primary := t.display.primary } }
      ∧ t.totalSeconds + 1 = s.totalSeconds ∧ t.TimeLegal
      ∧ (0 < t.totalSeconds → t.eng = .counting ∧ t.uq = [])
      ∧ (t.totalSeconds = 0 → t.eng = .unlocking ∧ t.uq = [.emit 1])
      ∧ (0 < s.sec.toNat →
          t.display = s.display.write .primary (fieldWord s.params.segMap .sec)
            (s.cache.wordFor .sec (s.sec.toNat - 1)))
      ∧ ∀ w : Nat, (∀ f : Field, w ≠ fieldWord s.params.segMap f) →
          t.display.read .primary w = s.display.read .primary w

/-- A countdown tick with no time left enters UNLOCKING, queues one UNLOCK and changes no time or display
(41_engine R98). -/
def Obligations.CountdownOfZeroUnlocks : Prop :=
  ∀ s : State, s.TickEnabled → s.eng = .counting → s.mode = .down → s.totalSeconds = 0 →
    exec .tickDispatch s = .next { s with tickIfg := false, eng := .unlocking, uq := [.emit 1] }

/-- A tick outside COUNTING only clears TICK_IFG (41_engine R96). -/
def Obligations.TickOutsideCountingOnlyClears : Prop :=
  ∀ s : State, s.TickEnabled → s.eng ≠ .counting → exec .tickDispatch s = .next { s with tickIfg := false }

/-- A count-up tick short of midnight adds one second and rotates the page: TIME only while DAYS = 0, else TIME, DAYS,
BLANK in turn; while the seconds do not carry one word is stored, and no display word but the three field words is
written (41_engine R102, R104). That a field word is stored whatever CACHE_VALID holds, which is 1 in every run here, is
the model's choice, log 16 (40_display R88). -/
def Obligations.CountUpTickAddsOneSecond : Prop :=
  ∀ s : State, s.TickEnabled → s.eng = .counting → s.mode = .up → s.TimeLegal →
    ¬(s.sec = 59 ∧ s.min = 59 ∧ s.hr = 23) →
      ∃ t, exec .tickDispatch s = .next t
        ∧ t = { s with
            tickIfg := false, sec := t.sec, min := t.min, hr := t.hr, page := t.page
            display := { s.display with primary := t.display.primary, bank := t.display.bank, lcdOn := t.display.lcdOn } }
        ∧ t.totalSeconds = s.totalSeconds + 1 ∧ t.TimeLegal
        ∧ (s.days = 0 → t.page = .time)
        ∧ (s.days ≠ 0 → (s.page = .time → t.page = .days) ∧ (s.page = .days → t.page = .blank)
            ∧ (s.page = .blank → t.page = .time))
        ∧ (t.page = .time → t.display.bank = .primary ∧ t.display.lcdOn = true)
        ∧ (t.page = .days → t.display.bank = .alternate ∧ t.display.lcdOn = true)
        ∧ (t.page = .blank → t.display.bank = s.display.bank ∧ t.display.lcdOn = false)
        ∧ (s.sec.toNat ≠ 59 →
            t.display.primary = (s.display.write .primary (fieldWord s.params.segMap .sec)
              (s.cache.wordFor .sec (s.sec.toNat + 1))).primary)
        ∧ ∀ w : Nat, (∀ f : Field, w ≠ fieldWord s.params.segMap f) →
            t.display.read .primary w = s.display.read .primary w

/-- The count-up tick at midnight, short of long-now: one more day, the time of day zero, the century bookkeeping done
and its record write queued, the three field words and the day page repainted, the page rotated with its BANK and LCD_ON
(41_engine R102, R103, R104). Where CENT * 36525 exceeds DAYS, which no run reaches, that the days in the century are
then 0 is the model's choice, log 13; so is, log 16, that a field word is stored whatever CACHE_VALID holds, which is 1
in every run here (40_display R88). -/
def Obligations.DayRolloverBooksTheCentury : Prop :=
  ∀ s : State, s.TickEnabled → s.eng = .counting → s.mode = .up →
    s.sec = 59 ∧ s.min = 59 ∧ s.hr = 23 → s.days.toNat + 1 < 1000000 → layoutOk s.params.segMap = true →
      ∃ t, exec .tickDispatch s = .next t
        ∧ t = { s with
            tickIfg := false, sec := 0, min := 0, hr := 0, days := s.days + 1, cent := t.cent, midf := t.midf
            uq := t.uq, page := s.page.next, display := t.display }
        ∧ t.totalSeconds = s.totalSeconds + 1
        ∧ CenturyBooked (s.days.toNat + 1) s t
        ∧ t.display.DayPage s.params.segMap (s.days.toNat + 1)
        ∧ (∀ f : Field, t.display.read .primary (fieldWord s.params.segMap f) = s.cache.wordFor f 0)
        ∧ t.display.blink = s.display.blink
        ∧ (s.page = .time → t.page = .days) ∧ (s.page = .days → t.page = .blank) ∧ (s.page = .blank → t.page = .time)
        ∧ (t.page = .time → t.display.bank = .primary ∧ t.display.lcdOn = true)
        ∧ (t.page = .days → t.display.bank = .alternate ∧ t.display.lcdOn = true)
        ∧ (t.page = .blank → t.display.bank = s.display.bank ∧ t.display.lcdOn = false)

/-- The count-up tick whose day rollover reaches LONG_NOW_DAYS enters TERMINAL with every counter zero and the
terminal page (41_engine R102, R103, R105). For a CENT whose days exceed 1000000, which no run reaches, that the days in
the century are then 0 is the model's choice, log 13. -/
def Obligations.LongNowEntersTerminal : Prop :=
  ∀ s : State, s.TickEnabled → s.eng = .counting → s.mode = .up →
    s.sec = 59 ∧ s.min = 59 ∧ s.hr = 23 → s.days = 999999 → layoutOk s.params.segMap = true →
      ∃ t, exec .tickDispatch s = .next t
        ∧ t = { s with
            tickIfg := false, eng := .terminal, sec := 0, min := 0, hr := 0, days := 0, page := .time
            cent := t.cent, midf := t.midf, uq := t.uq, display := t.display }
        ∧ CenturyBooked 1000000 s t
        ∧ t.display.TerminalPage s.params.segMap

/-- The RTC day of a valid date is at most 36524, and is MID_DAYS or more exactly when the year is 50 or more
(41_engine R103, R109). -/
def Obligations.MidpointIsTheYearTest : Prop :=
  ∀ p : Stamp, validTs p = true →
    rtcDays (stampFields p).yy (stampFields p).mm (stampFields p).dd ≤ 36524
      ∧ (18263 ≤ rtcDays (stampFields p).yy (stampFields p).mm (stampFields p).dd ↔ 50 ≤ (stampFields p).yy)

/-- The RTC day grows by one from each valid date to the next one in the same month, and from the last day of a month
to the first of the next (41_engine R109). -/
def Obligations.RtcDaysCountsCalendarDays : Prop :=
  rtcDays 0 1 1 = 0
    ∧ (∀ yy mm dd : Nat, yy ≤ 99 → 1 ≤ mm → mm ≤ 12 → 1 ≤ dd → dd < daysInMonth yy mm →
        rtcDays yy mm (dd + 1) = rtcDays yy mm dd + 1)
    ∧ (∀ yy mm : Nat, yy ≤ 99 → 1 ≤ mm → mm < 12 →
        rtcDays yy (mm + 1) 1 = rtcDays yy mm (daysInMonth yy mm) + 1)
    ∧ ∀ yy : Nat, yy < 99 → rtcDays (yy + 1) 1 1 = rtcDays yy 12 31 + 1

/-! ### The input line (43_input) -/

/-- INPUT_ENTRY outside SETTING: only the snapshot of the requesting inputs and DEB_ACTIVE are written
(43_input R126). -/
def Obligations.EntryOutsideSettingOnlySnapshots : Prop :=
  ∀ s : State, s.EntryEnabled → s.eng ≠ .setting →
    ∃ t, exec .inputEntry s = .next t
      ∧ t = { s with debSet := t.debSet, debActive := true }
      ∧ ∀ i : Input, t.debSet.get i = (s.ifg.get i && s.ie.get i)

/-- INPUT_ENTRY in SETTING: BTN_ADV moves the cursor one position left (from 5 to the units position 0), then BTN_INC
increments, each only when it requests, is armed and awaits a press; the setting page is repainted when one acts, and
the display is left alone when none does (43_input R126, R130). -/
def Obligations.ButtonsActAtEntry : Prop :=
  ∀ s : State, s.EntryEnabled → s.eng = .setting → layoutOk s.params.segMap = true →
    let acts := fun i : Input => s.ifg.get i && s.ie.get i && s.armed.get i && !s.edge.get i
    let moved : Setting :=
      if acts .adv then { s.setting with cursor := Fin.ofNat 6 (s.setting.cursor.val + 1) } else s.setting
    ∃ t, exec .inputEntry s = .next t
      ∧ t = { s with setting := t.setting, display := t.display, debSet := t.debSet, debActive := true }
      ∧ (∀ i : Input, t.debSet.get i = (s.ifg.get i && s.ie.get i))
      ∧ t.setting = (if acts .inc then moved.increment else moved)
      ∧ (acts .adv = false → acts .inc = false → t.display = s.display)
      ∧ (acts .adv = true ∨ acts .inc = true → t.display.SettingPage s.params.segMap t.setting)

/-- The increment of BTN_INC: below YEARS the digit under the cursor steps, 9 to 0; in YEARS the two highest digits stay
0, the hundreds digit toggles and clears the lower ones when it becomes 1, and the lower digits stay 0 under a hundreds
digit of 1; at the units position the unit steps, and becoming YEARS clamps the digits (43_input R131, R132, R133). -/
def Obligations.IncrementStepsDigitOrUnit : Prop :=
  ∀ t : Setting, t.DigitsLegal → t.YearsCapped →
    t.increment.cursor = t.cursor
      ∧ (∀ k : Fin 5, t.cursor = k.succ → t.unit ≠ .years →
          t.increment.unit = t.unit ∧ t.increment.digit k = (t.digit k + 1) % 10
            ∧ ∀ j, j ≠ k → t.increment.digit j = t.digit j)
      ∧ (∀ k : Fin 5, t.cursor = k.succ → t.unit = .years →
          t.increment.unit = .years
            ∧ (3 ≤ k.val → ∀ j, t.increment.digit j = t.digit j)
            ∧ (k.val = 2 → t.increment.digit 2 = (t.digit 2 + 1) % 2 ∧ t.increment.digit 3 = 0 ∧ t.increment.digit 4 = 0
                ∧ (t.digit 2 = 0 → t.increment.digit 0 = 0 ∧ t.increment.digit 1 = 0)
                ∧ (t.digit 2 = 1 → t.increment.digit 0 = t.digit 0 ∧ t.increment.digit 1 = t.digit 1))
            ∧ (k.val < 2 → t.increment.digit k = (if t.digit 2 = 1 then 0 else (t.digit k + 1) % 10)
                ∧ ∀ j, j ≠ k → t.increment.digit j = t.digit j))
      ∧ (t.cursor = 0 →
          (t.unit = .seconds → t.increment.unit = .hours) ∧ (t.unit = .hours → t.increment.unit = .days)
            ∧ (t.unit = .years → t.increment.unit = .seconds)
            ∧ (t.unit ≠ .days → t.increment.dig = t.dig)
            ∧ (t.unit = .days → t.increment.unit = .years ∧ t.increment.digit 3 = 0 ∧ t.increment.digit 4 = 0
                ∧ t.increment.digit 2 = Nat.min (t.digit 2) 1
                ∧ (t.digit 2 = 0 → t.increment.digit 0 = t.digit 0 ∧ t.increment.digit 1 = t.digit 1)
                ∧ (t.digit 2 ≠ 0 → t.increment.digit 0 = 0 ∧ t.increment.digit 1 = 0)))

/-- The years cap: an increment keeps every digit legal and the cap of 43_input R134, and a capped value is at most
100 (43_input R131 to R134). -/
def Obligations.YearsCapIsKept : Prop :=
  ∀ t : Setting, t.DigitsLegal → t.YearsCapped →
    t.increment.DigitsLegal ∧ t.increment.YearsCapped ∧ t.advance.DigitsLegal ∧ t.advance.YearsCapped
      ∧ (t.unit = .years → t.value ≤ 100)

/-- SETTLE_DONE for every input: the flag of a snapshot input is cleared; a confirmed press awaits the release, a
confirmed release awaits the press and re-arms all but a disabled trigger; an unconfirmed edge changes neither; an
input outside the snapshot is untouched (43_input R127). -/
def Obligations.SettleFlipsConfirmedInputs : Prop :=
  ∀ s : State, s.SettleEnabled →
    ∃ t, exec .settleDone s = .next t ∧ t.debActive = false ∧ t.debSet = ⟨false, false, false⟩ ∧ t.pin = s.pin
      ∧ ∀ i : Input,
        (s.debSet.get i = false →
          t.ifg.get i = s.ifg.get i ∧ t.edge.get i = s.edge.get i ∧ t.armed.get i = s.armed.get i)
        ∧ (s.debSet.get i = true → t.ifg.get i = false)
        ∧ (s.debSet.get i = true → s.edge.get i = false → s.pin.get i = false →
          t.edge.get i = true ∧ t.armed.get i = false)
        ∧ (s.debSet.get i = true → s.edge.get i = false → s.pin.get i = true →
          t.edge.get i = false ∧ t.armed.get i = s.armed.get i)
        ∧ (s.debSet.get i = true → s.edge.get i = true → s.pin.get i = true →
          t.edge.get i = false ∧ (i = .trig ∧ s.ie.trig = false → t.armed.get i = s.armed.get i)
            ∧ (¬(i = .trig ∧ s.ie.trig = false) → t.armed.get i = true))
        ∧ (s.debSet.get i = true → s.edge.get i = true → s.pin.get i = false →
          t.edge.get i = true ∧ t.armed.get i = s.armed.get i)

/-- SETTLE_DONE without a confirmed trigger press in SETTING writes only the input bits: no setting, no time, no
display, no durable memory, no queue (43_input R127). -/
def Obligations.SettleWithoutTriggerIsQuiet : Prop :=
  ∀ s : State, s.SettleEnabled →
    ¬(s.debSet.trig = true ∧ s.edge.trig = false ∧ s.pin.trig = false ∧ s.armed.trig = true ∧ s.eng = .setting) →
      ∃ t, exec .settleDone s = .next t
        ∧ t = { s with ifg := t.ifg, edge := t.edge, armed := t.armed, debSet := t.debSet, debActive := false }

/-- A confirmed trigger press in SETTING with CONFIG 0 commits: COUNTING(CountDown) with exactly VALUE times the unit's
seconds, VALUE weighing DIG[k] by 10^k and the units being 1, 3600, 86400 and 31556926 seconds, the time page shown, one
RTC_RESET queued, the setting kept (43_input R135, 41_engine R100, R107, 10_state R22, 00_scope R7). That a field word
is stored whatever CACHE_VALID holds, which is 1 in every run here, is the model's choice, log 16 (40_display R88). -/
def Obligations.CommitSetsTheDuration : Prop :=
  ∀ s : State, s.SettleEnabled → s.debSet.trig = true → s.edge.trig = false → s.pin.trig = false →
    s.armed.trig = true → s.eng = .setting → s.params.config = .countdownUnlock →
    layoutOk s.params.segMap = true → s.cache = cacheWords s.params.segMap →
      let dig := fun k : Fin 5 => (s.setting.dig.get k).toNat
      let value := dig 0 + 10 * dig 1 + 100 * dig 2 + 1000 * dig 3 + 10000 * dig 4
      ∃ t, exec .settleDone s = .next t
        ∧ t = { s with
            eng := .counting, mode := .down, page := .time, sec := t.sec, min := t.min, hr := t.hr, days := t.days
            ifg := t.ifg, edge := t.edge, armed := t.armed, debSet := t.debSet, debActive := false
            uq := [.emit 2], display := t.display }
        ∧ t.TimeLegal ∧ t.totalSeconds = s.setting.value * s.setting.unit.inSeconds
        ∧ (s.setting.unit = .seconds → t.totalSeconds = value)
        ∧ (s.setting.unit = .hours → t.totalSeconds = value * 3600)
        ∧ (s.setting.unit = .days → t.totalSeconds = value * 86400)
        ∧ (s.setting.unit = .years → t.totalSeconds = value * 31556926)
        ∧ t.display.TimePage s.params.segMap t.sec.toNat t.min.toNat t.hr.toNat
        ∧ (∀ p : Fin 6, t.display.Shows s.params.segMap .alternate p 0)
        ∧ t.display.Controls .primary .none true

/-- A confirmed trigger press in SETTING with CONFIG 1 launches: COUNTING(CountUp) from zero, IE[TRIG] and ARMED[TRIG]
cleared, and the launch timestamp's write, the launch flag's write and RTC_RESET queued in this order (43_input R135,
41_engine R106). That the trigger then stays disabled is the invariant's one-shot clause, and a launch cut by a power
loss may launch again (70_reset_and_hazards R168). That a field word is stored whatever CACHE_VALID holds, which is 1 in
every run here, is the model's choice, log 16 (40_display R88). -/
def Obligations.LaunchIsOneShot : Prop :=
  ∀ s : State, s.SettleEnabled → s.debSet.trig = true → s.edge.trig = false → s.pin.trig = false →
    s.armed.trig = true → s.eng = .setting → s.params.config = .elapsedSinceLaunch →
    layoutOk s.params.segMap = true → s.cache = cacheWords s.params.segMap →
      ∃ t, exec .settleDone s = .next t
        ∧ t = { s with
            eng := .counting, mode := .up, page := .time, sec := 0, min := 0, hr := 0, days := 0
            cent := s.dur.readCentury.1, midf := s.dur.readCentury.2
            ie := ⟨s.ie.adv, s.ie.inc, false⟩, ifg := t.ifg, edge := t.edge, armed := t.armed
            debSet := t.debSet, debActive := false, uq := t.uq, display := t.display }
        ∧ t.armed.trig = false
        ∧ t.uq = s.dur.recordUops .lts
              [s.tsLatch.extractLsb' 0 16, s.tsLatch.extractLsb' 16 16, s.tsLatch.extractLsb' 32 16]
            ++ s.dur.recordUops .lflag [1] ++ [.emit 2]
        ∧ t.display.TimePage s.params.segMap 0 0 0 ∧ t.display.DayPage s.params.segMap 0
        ∧ t.display.Controls .primary .none true

/-- Debounce idempotence: bounces of a snapshot input inside the settle time, ending at the level the awaited edge led
to, change nothing of what SETTLE_DONE makes of the edge, and INPUT_ENTRY is enabled neither after a whole bounce nor
between the two changes of one (43_input R129). That a step not enabled is a named fault is the model's choice,
log 10. -/
def Obligations.BouncesDoNotCount : Prop :=
  ∀ (i : Input) (n : Nat) (s : State), s.SettleEnabled → s.debSet.get i = true → s.pin.get i = s.edge.get i →
    execAll (bounces i (s.edge.get i) n ++ [.settleDone]) s = exec .settleDone s
      ∧ (∃ t, execAll (bounces i (s.edge.get i) n) s = .next t ∧ exec .inputEntry t = .fault .stepNotEnabled)
      ∧ ∃ t, execAll (bounces i (s.edge.get i) n ++ [.pinChange i (!s.edge.get i)]) s = .next t
          ∧ exec .inputEntry t = .fault .stepNotEnabled

/-! ### µops and durable records (42_durable) -/

/-- UOP_STEP takes the head off UQ and performs it (42_durable R120). -/
def Obligations.UopStepPerformsTheHead : Prop :=
  ∀ (s : State) (u : Uop) (us : List Uop), s.uq = u :: us → exec .uopStep s = exec u.toInstr { s with uq := us }

/-- Where a µop step stops: with UQ empty there is no such step (log 10), and a DWW outside the durable memory and an
EMIT of a reserved code, which no rule enqueues, are refused by name (log 12; 20_memory R48, 30_encoding R68). The
names of the stops are the model's choice. -/
def Obligations.UopsOutsideTheirRulesStop : Prop :=
  ∀ (a e : BitVec 8) (v : Word) (s : State),
    (s.uq = [] → exec .uopStep s = .fault .stepNotEnabled)
      ∧ (32 ≤ a.toNat → exec (.dww a v) s = .refused .durableAddressOutside)
      ∧ (¬(e = 1 ∨ e = 2) → exec (.emit e) s = .refused .reservedEventCode)

/-- UOP_STEP with a well-formed head completes, and changes, besides taking the head off UQ, only what that µop writes: a
DWW its own word of DUR or WP_FAULT, a WPU or a WPL only WP, an EMIT only OUT (42_durable R120 to R124). -/
def Obligations.UopStepCompletes : Prop :=
  ∀ (s : State) (u : Uop) (us : List Uop), s.uq = u :: us → u.wellFormed = true →
    ∃ t, exec .uopStep s = .next t
      ∧ t = { s with uq := us, dur := t.dur, wp := t.wp, wpFault := t.wpFault, out := t.out }
      ∧ (∀ b : Nat, (∀ a v, u = .dww a v → b ≠ a.toNat) → t.dur.read b = s.dur.read b)
      ∧ ((∃ a v, u = .dww a v) → t = { s with uq := us, dur := t.dur, wpFault := t.wpFault })
      ∧ (u = .wpu → t = { s with uq := us, wp := false }) ∧ (u = .wpl → t = { s with uq := us, wp := true })
      ∧ ∀ e, u = .emit e → t = { s with uq := us, out := s.out ++ [e] }

/-- DWW writes its one word while unprotected, and while protected drops the write and sets WP_FAULT
(42_durable R121). -/
def Obligations.DwwWritesOneWord : Prop :=
  ∀ (a : BitVec 8) (v : Word) (s : State), a.toNat < 32 →
    (s.wp = true → exec (.dww a v) s = .next { s with wpFault := true })
      ∧ (s.wp = false → s.dur.wf = true →
        ∃ t, exec (.dww a v) s = .next t ∧ t = { s with dur := t.dur }
          ∧ t.dur.read a.toNat = v ∧ ∀ b, b ≠ a.toNat → t.dur.read b = s.dur.read b)

/-- WPU, WPL and EMIT write what their rules say and nothing else, in every state (42_durable R122, R123, R124). -/
def Obligations.WpuWplEmitResults : Prop :=
  ∀ (e : BitVec 8) (s : State),
    exec .wpu s = .next { s with wp := false } ∧ exec .wpl s = .next { s with wp := true }
      ∧ (e = 1 ∨ e = 2 → exec (.emit e) s = .next { s with out := s.out ++ [e] })

/-- A record's write is 2n + 4 µops, or 3n + 5 with the repair phase; it starts with WPU and ends with WPL; and the
µops of a one-word record whose active flag is clear, word for word (42_durable R117). The repair of a cut write on its
own, as a restore queues it, is the repair phase in the same bracket, and cut after any number j of its µops it leaves
every record reading as before; that list is the model's choice, log 21 (44_host R137). -/
def Obligations.RecordWriteSequence : Prop :=
  (∀ (m : Memory) (r : Record) (n : List Word), n.length = r.size →
    (m.read r.base = 0 → (m.recordUops r n).length = 2 * r.size + 4)
      ∧ (m.read r.base ≠ 0 → (m.recordUops r n).length = 3 * r.size + 5)
      ∧ (m.recordUops r n).head? = some .wpu ∧ (m.recordUops r n).getLast? = some .wpl)
  ∧ (∀ (m : Memory) (v : Word), m.read 0x05 = 0 →
    m.recordUops .lflag [v] =
      [.wpu, .dww 0x07 (m.read 0x06), .dww 0x05 1, .dww 0x06 v, .dww 0x05 0, .wpl])
  ∧ (∀ m : Memory, m.read 0x00 ≠ 0 →
    m.repairList .crec = [.wpu, .dww 0x01 (m.read 0x03), .dww 0x02 (m.read 0x04), .dww 0x00 0, .wpl])
  ∧ ∀ (r r' : Record) (j : Nat) (s : State), s.uq = [] → s.dur.wf = true →
    (runUops j (s.repairRecord r)).dur.readDurable r' = s.dur.readDurable r'

/-- CRASH SAFETY. Power lost after any number j of a record write's µops, behind whatever µops of other records are
queued before them, leaves the record reading as its old value, or, exactly once phase 4's clearing of the active flag
has completed, as its new value; every other record reads as the earlier µops left it (42_durable R118). -/
def Obligations.CrashSafety : Prop :=
  ∀ (r : Record) (n : List Word) (j : Nat) (s : State),
    s.dur.wf = true → n.length = r.size → (∀ u ∈ s.uq, u.wellFormed = true ∧ uopWrites r u = false) →
      ∃ t, exec .powerLoss (runUops (s.uq.length + j) (s.writeDurable r n)) = .next t
        ∧ (j + 1 < (s.dur.recordUops r n).length → t.dur.readDurable r = s.dur.readDurable r)
        ∧ ((s.dur.recordUops r n).length ≤ j + 1 → t.dur.readDurable r = n)
        ∧ ∀ r' : Record, r' ≠ r → t.dur.readDurable r' = (runUops s.uq.length s).dur.readDurable r'

/-- One handler queues at most 23 µops (10_state R38). -/
def Obligations.QueueGrowthIsBounded : Prop :=
  ∀ (i : Instr) (s t : State), exec i s = .next t → t.uq.length ≤ s.uq.length + 23

/-! ### The display (40_display) -/

/-- With a layout that passes the self-check, each cache word read back through the segment map shows the tens and the
ones digit of its value (40_display R89). -/
def Obligations.CacheWordsShowTheirValue : Prop :=
  ∀ (m : SegMap) (f : Field) (v : Nat), layoutOk m = true →
    v < (match f with | .sec => 60 | .min => 60 | .hr => 24) →
      (cacheWords m).wordFor f v = cacheWord m f v
        ∧ glyphIn m f.tens (cacheWord m f v) = digitGlyph (v / 10)
        ∧ glyphIn m f.ones (cacheWord m f v) = digitGlyph (v % 10)

/-- With a layout that passes the self-check, writeGlyph shows exactly its glyph at its position, set and cleared, and
leaves every other position, every bit that is no segment of its position, the other buffer and the control registers
alone (40_display R79). -/
def Obligations.WriteGlyphShowsItsGlyph : Prop :=
  ∀ (m : SegMap) (b : Buffer) (p : Fin 6) (g : Glyph) (d : Display), layoutOk m = true →
    (writeGlyph m b p g d).Shows m b p g
      ∧ (∀ q : Fin 6, q ≠ p → ∀ h : Glyph, d.Shows m b q h → (writeGlyph m b p g d).Shows m b q h)
      ∧ (∀ w k : Nat, (∀ x : Fin 7, ¬(w = (segAt m p x).word ∧ k = (segAt m p x).bit)) →
          ((writeGlyph m b p g d).read b w).getLsbD k = (d.read b w).getLsbD k)
      ∧ (∀ b' w, b' ≠ b → (writeGlyph m b p g d).read b' w = d.read b' w)
      ∧ (writeGlyph m b p g d).Controls d.bank d.blink d.lcdOn

/-- With a layout that passes the self-check, the three field words are different words of the display memory
(40_display R77; two fields' 28 segment bits do not fit one 16-bit word). -/
def Obligations.FieldWordsAreDistinct : Prop :=
  ∀ m : SegMap, layoutOk m = true →
    fieldWord m .sec ≠ fieldWord m .min ∧ fieldWord m .sec ≠ fieldWord m .hr ∧ fieldWord m .min ≠ fieldWord m .hr
      ∧ ∀ f : Field, fieldWord m f < 3

/-- The visible image (40_display R85): dark while LCD_ON = 0, and else by the blink mode. -/
def Obligations.VisibleImageFollowsTheBlinkMode : Prop :=
  ∀ (d : Display) (w k : Nat),
    (d.lcdOn = false → ∀ φ, d.lit φ w k = false)
      ∧ (d.lcdOn = true → d.blink = .none → ∀ φ, d.lit φ w k = (d.read d.bank w).getLsbD k)
      ∧ (d.lcdOn = true → d.blink = .perSegment → d.lit .on w k = (d.read d.bank w).getLsbD k
          ∧ d.lit .off w k = ((d.read d.bank w).getLsbD k && !(d.read .alternate w).getLsbD k))
      ∧ (d.lcdOn = true → d.blink = .allSegments →
          d.lit .on w k = (d.read d.bank w).getLsbD k ∧ d.lit .off w k = false)
      ∧ (d.lcdOn = true → d.blink = .autoAlternate →
          d.lit .on w k = (d.read .primary w).getLsbD k ∧ d.lit .off w k = (d.read .alternate w).getLsbD k)

/-! ### The host's view (10_state R42) -/

/-- The host's register space, every register with each field at its place, every unlisted bit and every unlisted
address 0, BUSY exactly while UQ is nonempty or DEB_ACTIVE is 1, and the codes of the enumerated registers (10_state
R42, R31, R14, R15, R19, R21, R32, 00_scope R6). That UQLEN shows a count beyond its 16 bits modulo 65536 is the model's
choice, log 13; no run has so long a queue. -/
def Obligations.RegisterMapFields : Prop :=
  ([.idle, .setting, .counting, .unlocking, .terminal, .error].map EngState.code = [0, 1, 2, 3, 4, 5]
    ∧ [.time, .days, .blank].map Page.code = [0, 1, 2]
    ∧ [.seconds, .hours, .days, .years].map TimeUnit.code = [0, 1, 2, 3]
    ∧ [.none, .perSegment, .allSegments, .autoAlternate].map BlinkMode.code = [0, 1, 2, 3])
  ∧ ∀ s : State,
    -- 0x000 STATUS
    ((hostRead s 0x000).extractLsb' 0 3 = s.eng.code ∧ (hostRead s 0x000).getLsbD 3 = decide (s.mode = .up)
      ∧ (hostRead s 0x000).extractLsb' 4 4 = s.errCode ∧ (hostRead s 0x000).getLsbD 8 = s.busy
      ∧ (s.busy = true ↔ s.uq ≠ [] ∨ s.debActive = true)
      ∧ (hostRead s 0x000).getLsbD 9 = s.tickLost ∧ (hostRead s 0x000).getLsbD 10 = s.cmdReject
      ∧ (hostRead s 0x000).extractLsb' 11 2 = s.rejectReason ∧ (hostRead s 0x000).getLsbD 13 = s.wpFault
      ∧ (hostRead s 0x000).getLsbD 14 = s.cacheValid
      ∧ (hostRead s 0x000).getLsbD 15 = decide (s.params.config = .elapsedSinceLaunch)
      ∧ (hostRead s 0x000).extractLsb' 16 16 = 0)
    -- 0x001 TIME
    ∧ ((hostRead s 0x001).extractLsb' 0 6 = s.sec ∧ (hostRead s 0x001).extractLsb' 6 2 = 0
      ∧ (hostRead s 0x001).extractLsb' 8 6 = s.min ∧ (hostRead s 0x001).extractLsb' 14 2 = 0
      ∧ (hostRead s 0x001).extractLsb' 16 5 = s.hr ∧ (hostRead s 0x001).extractLsb' 21 3 = 0
      ∧ (hostRead s 0x001).extractLsb' 24 2 = s.page.code ∧ (hostRead s 0x001).extractLsb' 26 6 = 0)
    -- 0x002 DAYS, 0x003 CENTURY
    ∧ hostRead s 0x002 = s.days
    ∧ ((hostRead s 0x003).extractLsb' 0 16 = s.cent ∧ (hostRead s 0x003).getLsbD 16 = s.midf
      ∧ (hostRead s 0x003).extractLsb' 17 15 = 0)
    -- 0x004 SETTING
    ∧ ((hostRead s 0x004).extractLsb' 0 2 = s.setting.unit.code ∧ (hostRead s 0x004).extractLsb' 2 2 = 0
      ∧ (hostRead s 0x004).extractLsb' 4 3 = BitVec.ofNat 3 s.setting.cursor.val
      ∧ (hostRead s 0x004).getLsbD 7 = false
      ∧ (∀ k : Fin 5, (hostRead s 0x004).extractLsb' (8 + 4 * k.val) 4 = s.setting.dig.get k)
      ∧ (hostRead s 0x004).extractLsb' 28 4 = 0)
    -- 0x005 INPUT, bit n of each group input n
    ∧ ((∀ i : Input, ∀ n : Nat, i = .adv ∧ n = 0 ∨ i = .inc ∧ n = 1 ∨ i = .trig ∧ n = 2 →
        (hostRead s 0x005).getLsbD n = s.pin.get i ∧ (hostRead s 0x005).getLsbD (4 + n) = s.ifg.get i
          ∧ (hostRead s 0x005).getLsbD (8 + n) = s.ie.get i ∧ (hostRead s 0x005).getLsbD (12 + n) = s.edge.get i
          ∧ (hostRead s 0x005).getLsbD (16 + n) = s.armed.get i
          ∧ (hostRead s 0x005).getLsbD (24 + n) = s.debSet.get i)
      ∧ (hostRead s 0x005).getLsbD 20 = s.debActive
      ∧ (∀ n : Nat, n ∈ [3, 7, 11, 15, 19, 21, 22, 23] → (hostRead s 0x005).getLsbD n = false)
      ∧ (hostRead s 0x005).extractLsb' 27 5 = 0)
    -- 0x006 TICK, 0x007 DISPCTL
    ∧ ((hostRead s 0x006).getLsbD 0 = s.tickIfg ∧ (hostRead s 0x006).getLsbD 1 = s.tickIe
      ∧ (hostRead s 0x006).extractLsb' 2 30 = 0)
    ∧ ((hostRead s 0x007).getLsbD 0 = decide (s.display.bank = .alternate)
      ∧ (hostRead s 0x007).extractLsb' 1 2 = s.display.blink.code ∧ (hostRead s 0x007).getLsbD 3 = s.display.lcdOn
      ∧ (hostRead s 0x007).getLsbD 4 = s.wp ∧ (hostRead s 0x007).extractLsb' 5 27 = 0)
    -- 0x008 TS_LO, 0x009 TS_HI, 0x00A UQLEN
    ∧ hostRead s 0x008 = s.tsLatch.extractLsb' 0 32
    ∧ hostRead s 0x009 = (s.tsLatch.extractLsb' 32 16).setWidth 32
    ∧ (hostRead s 0x00A).toNat = s.uq.length % 2 ^ 16
    -- the memories
    ∧ (∀ w : Nat, w < 3 → hostRead s (0x010 + w) = (s.display.read .primary w).setWidth 32
        ∧ hostRead s (0x020 + w) = (s.display.read .alternate w).setWidth 32)
    ∧ (∀ a : Nat, a < 32 → hostRead s (0x040 + a) = (s.dur.read a).setWidth 32)
    ∧ (∀ v : Nat, v < 60 → hostRead s (0x100 + v) = (s.cache.wordFor .sec v).setWidth 32
        ∧ hostRead s (0x140 + v) = (s.cache.wordFor .min v).setWidth 32)
    ∧ (∀ v : Nat, v < 24 → hostRead s (0x180 + v) = (s.cache.wordFor .hr v).setWidth 32)
    -- every unlisted address
    ∧ ∀ a : Nat, 0x00A < a → ¬(0x010 ≤ a ∧ a ≤ 0x012) → ¬(0x020 ≤ a ∧ a ≤ 0x022) → ¬(0x040 ≤ a ∧ a ≤ 0x05F) →
        ¬(0x100 ≤ a ∧ a ≤ 0x13B) → ¬(0x140 ≤ a ∧ a ≤ 0x17B) → ¬(0x180 ≤ a ∧ a ≤ 0x197) → hostRead s a = 0

/-! ### Invariants and whole-machine rules -/

/-- The invariant holds right after reset. -/
def Obligations.InvariantHoldsAtReset : Prop := State.reset.Inv

/-- Every step keeps the invariant, whatever the environment and the host offer: the time registers in range, the
years cap, the canonical durable memory with its reserved words 0, a bracketed queue, no settle with work queued, no
enable in IDLE, a valid cache past BOOT, the launch one-shot, and the time page shown (10_state R45). -/
def Obligations.StepKeepsTheInvariant : Prop :=
  ∀ s t : State, s.Inv → step s = .next t → t.Inv

/-- Every step keeps the durable memory canonical, from every state. -/
def Obligations.StepKeepsMemoryCanonical : Prop :=
  ∀ s t : State, s.dur.wf = true → step s = .next t → t.dur.wf = true

/-- No step of a state with the invariant sets WP_FAULT: a protected DWW is never reached (42_durable R121). -/
def Obligations.ProtectedWritesAreUnreachable : Prop :=
  ∀ s t : State, s.Inv → s.wpFault = false → step s = .next t → t.wpFault = false

/-- No step of a state with the invariant meets a µop that its rule excludes: an address outside the durable memory or
a reserved event (20_memory R48, 30_encoding R68). -/
def Obligations.QueuedUopsAlwaysRun : Prop :=
  ∀ s : State, s.Inv → s.uq ≠ [] → ∃ t, exec .uopStep s = .next t

/-- The engine moves only along the rows of the transition table, each under its row's guard (41_engine R95, R98, R100,
R102, R106, R111, 43_input R127, 44_host R137, R138). -/
def Obligations.EngineMovesOnlyByTheTable : Prop :=
  ∀ (i : Instr) (s t : State), exec i s = .next t →
    t.eng = s.eng
      ∨ (i = .powerLoss ∧ t.eng = .idle)
      ∨ ((∃ p, i = .boot p) ∧ s.eng = .idle ∧ layoutOk s.params.segMap = false ∧ t.eng = .error ∧ t.errCode = 1)
      ∨ ((∃ p, i = .boot p) ∧ s.eng = .idle ∧ layoutOk s.params.segMap = true
          ∧ ¬(s.params.config = .elapsedSinceLaunch ∧ s.dur.flagSet .lflag = true) ∧ t.eng = .setting)
      ∨ ((∃ p, i = .boot p ∧ validTs p = false) ∧ s.eng = .idle ∧ layoutOk s.params.segMap = true
          ∧ s.params.config = .elapsedSinceLaunch ∧ s.dur.flagSet .lflag = true ∧ t.eng = .error ∧ t.errCode = 2)
      ∨ ((∃ p, i = .boot p ∧ validTs p = true
            ∧ let n := t.cent.toNat * 36525 + rtcDays (stampFields p).yy (stampFields p).mm (stampFields p).dd
              (1000000 ≤ n ∧ t.eng = .terminal) ∨ (n < 1000000 ∧ t.eng = .counting ∧ t.mode = .up))
          ∧ s.eng = .idle ∧ layoutOk s.params.segMap = true ∧ s.params.config = .elapsedSinceLaunch
          ∧ s.dur.flagSet .lflag = true)
      ∨ (i = .settleDone ∧ s.eng = .setting ∧ s.TriggerConfirmed ∧ s.params.config = .countdownUnlock
          ∧ t.eng = .counting ∧ t.mode = .down)
      ∨ (i = .settleDone ∧ s.eng = .setting ∧ s.TriggerConfirmed ∧ s.params.config = .elapsedSinceLaunch
          ∧ t.eng = .counting ∧ t.mode = .up)
      ∨ (i = .tickDispatch ∧ s.eng = .counting ∧ s.mode = .down ∧ t.totalSeconds = 0 ∧ t.eng = .unlocking)
      ∨ (i = .tickDispatch ∧ s.eng = .counting ∧ s.mode = .up
          ∧ 59 ≤ s.sec.toNat ∧ 59 ≤ s.min.toNat ∧ 23 ≤ s.hr.toNat ∧ 1000000 ≤ (s.days + 1).toNat
          ∧ t.eng = .terminal)
      ∨ (i = .unlockDone ∧ s.eng = .unlocking ∧ t.eng = .setting)

/-- TERMINAL and ERROR are absorbing until POWER_LOSS: no other step changes the engine, the time, the setting or the
display. UOP_STEP, which runs what a restore has queued, changes UQ, DUR, WP, WP_FAULT and OUT only; every other step
changes the input bits, the tick flags, the sticky flags and TS_LATCH only (41_engine R105, R108, 60_exceptions R161). -/
def Obligations.TerminalAndErrorAreAbsorbing : Prop :=
  ∀ (i : Instr) (s t : State), s.eng = .terminal ∨ s.eng = .error → i ≠ .powerLoss → exec i s = .next t →
    (i ≠ .uopStep → i.labelClass ≠ .uop →
      t = { s with
        pin := t.pin, ifg := t.ifg, edge := t.edge, armed := t.armed, debSet := t.debSet, debActive := t.debActive
        tickIfg := t.tickIfg, tickLost := t.tickLost, cmdReject := t.cmdReject, rejectReason := t.rejectReason
        wpFault := t.wpFault, tsLatch := t.tsLatch })
      ∧ (i = .uopStep ∨ i.labelClass = .uop →
        t = { s with uq := t.uq, dur := t.dur, wp := t.wp, wpFault := t.wpFault, out := t.out })

/-- Each countdown emits UNLOCK exactly once: the UNLOCK events emitted or queued grow by one exactly in the step that
enters UNLOCKING, and in no other step but POWER_LOSS change (41_engine R99). -/
def Obligations.UnlockIsEmittedOncePerCountdown : Prop :=
  ∀ s t : State, step s = .next t → t.powerUps = s.powerUps →
    (s.eng = .counting ∧ t.eng = .unlocking → t.unlocks = s.unlocks + 1)
      ∧ (¬(s.eng = .counting ∧ t.eng = .unlocking) → t.unlocks = s.unlocks)

/-- Who writes what, for every field of the state: the parameters and the offers are constant, OUT only grows, and each
register, memory and queue is written only by the steps its rule names, a step of UOP_STEP counting as its µop
(10_state R14 to R39, 41_engine R97, 42_durable R120 to R124, 43_input R126, R127, 44_host R137 to R141, 60_exceptions
R144 to R146). The fields `offers` and `powerUps` are the model's own, logs 1 and 6. -/
def Obligations.RegistersHaveOnlyTheirWriters : Prop :=
  ∀ (i : Instr) (s t : State), exec i s = .next t →
    t.params = s.params ∧ t.offers = s.offers ∧ s.out <+: t.out ∧ (i ≠ .powerLoss → t.powerUps = s.powerUps)
      -- DUR, OUT, WP, WP_FAULT and UQ
      ∧ ((∀ a v, performed i s ≠ .dww a v) → t.dur = s.dur)
      ∧ ((∀ e, performed i s ≠ .emit e) → t.out = s.out)
      ∧ (i ≠ .powerLoss → performed i s ≠ .wpu → performed i s ≠ .wpl → t.wp = s.wp)
      ∧ (i ≠ .powerLoss → i ≠ .clearStatus → (∀ a v, performed i s ≠ .dww a v) → t.wpFault = s.wpFault)
      ∧ (i ≠ .powerLoss → i ≠ .uopStep → (∀ p, i ≠ .boot p) → (∀ p, i ≠ .commission p) → i ≠ .settleDone →
          i ≠ .tickDispatch → t.uq = s.uq)
      -- the input line
      ∧ ((∀ j l, i ≠ .pinChange j l) → t.pin = s.pin)
      ∧ (i ≠ .powerLoss → i ≠ .settleDone → t.edge = s.edge)
      ∧ (i ≠ .powerLoss → (∀ p, i ≠ .boot p) → i ≠ .settleDone → t.armed = s.armed)
      ∧ (i ≠ .powerLoss → (∀ p, i ≠ .boot p) → i ≠ .settleDone → (∀ j l, i ≠ .pinChange j l) → t.ifg = s.ifg)
      ∧ (i ≠ .powerLoss → i ≠ .inputEntry → i ≠ .settleDone → t.debActive = s.debActive ∧ t.debSet = s.debSet)
      ∧ (i ≠ .powerLoss → i ≠ .inputEntry → t.setting = s.setting)
      -- the tick and the sticky flags
      ∧ (i ≠ .powerLoss → (∀ p, i ≠ .boot p) → i ≠ .tickEdge → i ≠ .tickDispatch → t.tickIfg = s.tickIfg)
      ∧ (i ≠ .powerLoss → i ≠ .tickEdge → i ≠ .clearStatus → t.tickLost = s.tickLost)
      ∧ (i ≠ .powerLoss → i.labelClass ≠ .command ∨ (∃ p, i = .setTsLatch p) →
          t.cmdReject = s.cmdReject ∧ t.rejectReason = s.rejectReason)
      ∧ (i ≠ .powerLoss → (∀ p, i ≠ .setTsLatch p) → t.tsLatch = s.tsLatch)
      -- the engine, the display and the time
      ∧ (i ≠ .powerLoss → (∀ p, i ≠ .boot p) →
          t.cache = s.cache ∧ t.cacheValid = s.cacheValid ∧ t.errCode = s.errCode ∧ t.tickIe = s.tickIe)
      ∧ (i ≠ .powerLoss → (∀ p, i ≠ .boot p) → i ≠ .settleDone → t.ie = s.ie ∧ t.mode = s.mode)
      ∧ (i ≠ .powerLoss → (∀ p, i ≠ .boot p) → i ≠ .settleDone → i ≠ .tickDispatch →
          (i ≠ .unlockDone → t.eng = s.eng)
            ∧ (i ≠ .unlockDone → i ≠ .inputEntry → t.display = s.display)
            ∧ t.sec = s.sec ∧ t.min = s.min ∧ t.hr = s.hr ∧ t.days = s.days ∧ t.page = s.page ∧ t.cent = s.cent
            ∧ t.midf = s.midf)

/-- Right after reset every register holds the value 10_state R44 gives, DUR is all 0 and OUT empty (R163). CONFIG,
SEG_MAP, PIN, DISP and WORDFOR at reset are the model's choice (log 2 to 5), and the statement says nothing of them. -/
def Obligations.ResetIsTheManufactureState : Prop :=
  let s := State.reset
  s.eng = .idle ∧ s.mode = .down ∧ s.errCode = 0 ∧ s.sec = 0 ∧ s.min = 0 ∧ s.hr = 0 ∧ s.days = 0 ∧ s.page = .time
    ∧ s.cent = 0 ∧ s.midf = false ∧ s.setting.unit = .days ∧ (∀ k, s.setting.digit k = 0) ∧ s.setting.cursor = 1
    ∧ (∀ i, s.edge.get i = false ∧ s.armed.get i = true ∧ s.ifg.get i = false ∧ s.ie.get i = false)
    ∧ s.debActive = false ∧ (∀ i, s.debSet.get i = false) ∧ s.tickIfg = false ∧ s.tickIe = false
    ∧ s.tickLost = false ∧ s.cmdReject = false ∧ s.rejectReason = 0 ∧ s.wpFault = false ∧ s.cacheValid = false
    ∧ s.display.Controls .primary .none false ∧ s.wp = true ∧ s.tsLatch = 0 ∧ s.uq = [] ∧ s.out = []
    ∧ ∀ a, s.dur.read a = 0
end

