-- ==== Sys2Proof/Laws/Display.lean ====
section
/-! SUPPORT. The display: what a layout that passes the self-check gives, and what one display write can do. -/

namespace Sys2Proof.Machine

/-! ### The layout self-check (40_display R77) -/

theorem mem_positions (p : Fin 6) : p ∈ positions := by revert p; decide

theorem mem_segments (k : Fin 7) : k ∈ segments := by revert k; decide

theorem mem_fields (f : Field) : f ∈ fields := by cases f <;> decide

theorem segAt_mem (m : SegMap) (p : Fin 6) (k : Fin 7) : segAt m p k ∈ segLocs m :=
  List.mem_flatMap.mpr ⟨p, mem_positions p, List.mem_map.mpr ⟨k, mem_segments k, rfl⟩⟩

theorem allDistinct_nodup {l : List SegLoc} (h : allDistinct l = true) : l.Nodup := by
  induction l with
  | nil => exact List.nodup_nil
  | cons a l ih =>
    simp only [allDistinct, Bool.and_eq_true, Bool.not_eq_true'] at h
    exact List.nodup_cons.mpr ⟨by simpa using h.1, ih h.2⟩

/-- Every segment lies inside the display memory. -/
theorem layoutOk_bounds {m : SegMap} (h : layoutOk m = true) (p : Fin 6) (k : Fin 7) :
    (segAt m p k).word < 3 ∧ (segAt m p k).bit < 16 := by
  simp only [layoutOk, Bool.and_eq_true, List.all_eq_true] at h
  have e := h.1.1.1 _ (segAt_mem m p k)
  simp only [decide_eq_true_eq] at e
  exact e

/-- One word per position. -/
theorem layoutOk_word {m : SegMap} (h : layoutOk m = true) (p : Fin 6) (k : Fin 7) :
    (segAt m p k).word = (segAt m p 0).word := by
  simp only [layoutOk, Bool.and_eq_true, List.all_eq_true] at h
  simpa using h.1.1.2 p (mem_positions p) k (mem_segments k)

/-- A field's two positions share its word. -/
theorem layoutOk_field {m : SegMap} (h : layoutOk m = true) (f : Field) :
    (segAt m f.tens 0).word = fieldWord m f ∧ (segAt m f.ones 0).word = fieldWord m f := by
  simp only [layoutOk, Bool.and_eq_true, List.all_eq_true] at h
  have := h.1.2 f (mem_fields f)
  simp only [beq_iff_eq] at this
  exact ⟨this.symm, rfl⟩

/-- No two segments share a location. -/
theorem layoutOk_inj {m : SegMap} (h : layoutOk m = true) {p q : Fin 6} {k l : Fin 7}
    (e : segAt m p k = segAt m q l) : p = q ∧ k = l := by
  simp only [layoutOk, Bool.and_eq_true] at h
  have nd := allDistinct_nodup h.2
  unfold segLocs at nd
  rw [List.nodup_flatMap] at nd
  by_cases hpq : p = q
  · subst hpq
    have n1 := nd.1 p (mem_positions p)
    exact ⟨rfl, List.inj_on_of_nodup_map n1 (mem_segments k) (mem_segments l) e⟩
  · have pw := nd.2
    have hsym : Std.Symm (α := Fin 6)
        (Function.onFun List.Disjoint fun p => List.map (fun s => segAt m p s) segments) :=
      ⟨fun _ _ hd => List.Disjoint.symm hd⟩
    have hd := pw.forall (mem_positions p) (mem_positions q) hpq
    exact absurd (List.mem_map.mpr ⟨l, mem_segments l, e.symm⟩) (hd (List.mem_map.mpr ⟨k, mem_segments k, rfl⟩))

/-- Two segments of one word have different bits. -/
theorem layoutOk_bit {m : SegMap} (h : layoutOk m = true) {p q : Fin 6} {k l : Fin 7}
    (hw : (segAt m p k).word = (segAt m q l).word) (hb : (segAt m p k).bit = (segAt m q l).bit) : p = q ∧ k = l := by
  apply layoutOk_inj h
  cases e : segAt m p k; cases e' : segAt m q l
  simp_all

/-! ### Reads and writes (20_memory R47) -/

/-- The bit `k` of word `w` of buffer `b`. -/
def Display.bit (d : Display) (b : Buffer) (w k : Nat) : Bool := (d.read b w).getLsbD k

theorem Display.read_write_same (d : Display) (b : Buffer) (w : Nat) (v : Word) (h : w < 3) :
    (d.write b w v).read b w = v := by
  cases b <;> simp [Display.read, Display.write, Display.buffer, h]

theorem Display.read_write_other (d : Display) (b : Buffer) {w w' : Nat} (v : Word) (h : w' ≠ w) :
    (d.write b w v).read b w' = d.read b w' := by
  have h' : w ≠ w' := fun e => h e.symm
  cases b <;> simp [Display.read, Display.write, Display.buffer, h']

theorem Display.read_write_buffer (d : Display) {b b' : Buffer} (w w' : Nat) (v : Word) (h : b' ≠ b) :
    (d.write b w v).read b' w' = d.read b' w' := by
  cases b <;> cases b' <;> first | exact absurd rfl h | rfl

@[simp] theorem Display.write_bank (d : Display) (b : Buffer) (w : Nat) (v : Word) : (d.write b w v).bank = d.bank := by
  cases b <;> rfl

@[simp] theorem Display.write_blink (d : Display) (b : Buffer) (w : Nat) (v : Word) :
    (d.write b w v).blink = d.blink := by cases b <;> rfl

@[simp] theorem Display.write_lcdOn (d : Display) (b : Buffer) (w : Nat) (v : Word) :
    (d.write b w v).lcdOn = d.lcdOn := by cases b <;> rfl

/-- A write to one buffer leaves the other buffer alone. -/
theorem Display.write_buffer (d : Display) {b b' : Buffer} (w : Nat) (v : Word) (h : b' ≠ b) :
    (d.write b w v).buffer b' = d.buffer b' := by
  cases b <;> cases b' <;> first | exact absurd rfl h | rfl

/-! ### One segment (40_display R78, R79) -/

/-- Writing a segment gives its bit the glyph's value, and leaves every other bit of the display memory alone. -/
theorem writeSegment_bit {m : SegMap} (h : layoutOk m = true) (b : Buffer) (p : Fin 6) (g : Glyph) (d : Display)
    (k : Fin 7) (b' : Buffer) (w n : Nat) :
    (writeSegment m b p g d k).bit b' w n =
      if b' = b ∧ w = (segAt m p k).word ∧ n = (segAt m p k).bit then g.getLsbD k.val else d.bit b' w n := by
  obtain ⟨hw, hb⟩ := layoutOk_bounds h p k
  unfold writeSegment setSegment clearSegment Display.bit
  by_cases e1 : b' = b
  · subst e1
    by_cases e2 : w = (segAt m p k).word
    · subst e2
      by_cases e3 : n = (segAt m p k).bit
      · subst e3
        cases g.getLsbD k.val <;> simp [Display.read_write_same _ _ _ _ hw, hb]
      · have e4 : 1#16 <<< (segAt m p k).bit = BitVec.twoPow 16 (segAt m p k).bit := by
          rw [BitVec.twoPow_eq]
        cases g.getLsbD k.val <;>
          simp [Display.read_write_same _ _ _ _ hw, e3, e4, BitVec.getLsbD_twoPow, Ne.symm e3]
        intro hh; exact BitVec.lt_of_getLsbD hh
    · cases g.getLsbD k.val <;> simp [Display.read_write_other _ _ _ e2, e2]
  · cases g.getLsbD k.val <;> simp [Display.read_write_buffer _ _ _ _ e1, e1]

@[simp] theorem writeSegment_bank (m : SegMap) (b : Buffer) (p : Fin 6) (g : Glyph) (d : Display) (k : Fin 7) :
    (writeSegment m b p g d k).bank = d.bank := by
  unfold writeSegment setSegment clearSegment; split <;> simp

@[simp] theorem writeSegment_blink (m : SegMap) (b : Buffer) (p : Fin 6) (g : Glyph) (d : Display) (k : Fin 7) :
    (writeSegment m b p g d k).blink = d.blink := by
  unfold writeSegment setSegment clearSegment; split <;> simp

@[simp] theorem writeSegment_lcdOn (m : SegMap) (b : Buffer) (p : Fin 6) (g : Glyph) (d : Display) (k : Fin 7) :
    (writeSegment m b p g d k).lcdOn = d.lcdOn := by
  unfold writeSegment setSegment clearSegment; split <;> simp

@[simp] theorem writeGlyph_bank (m : SegMap) (b : Buffer) (p : Fin 6) (g : Glyph) (d : Display) :
    (writeGlyph m b p g d).bank = d.bank := by simp [writeGlyph, segments]

@[simp] theorem writeGlyph_blink (m : SegMap) (b : Buffer) (p : Fin 6) (g : Glyph) (d : Display) :
    (writeGlyph m b p g d).blink = d.blink := by simp [writeGlyph, segments]

@[simp] theorem writeGlyph_lcdOn (m : SegMap) (b : Buffer) (p : Fin 6) (g : Glyph) (d : Display) :
    (writeGlyph m b p g d).lcdOn = d.lcdOn := by simp [writeGlyph, segments]

/-- A field write stores one word of one buffer (40_display R88). -/
theorem fieldWrite_read_other (m : SegMap) (c : WordCache) (b : Buffer) (f : Field) (v : Nat) (d : Display) {w : Nat}
    (h : w ≠ fieldWord m f) : (fieldWrite m c b f v d).read b w = d.read b w :=
  Display.read_write_other _ _ _ h

theorem fieldWrite_read_same {m : SegMap} (h : layoutOk m = true) (c : WordCache) (b : Buffer) (f : Field) (v : Nat)
    (d : Display) : (fieldWrite m c b f v d).read b (fieldWord m f) = c.wordFor f v :=
  Display.read_write_same _ _ _ _ (layoutOk_bounds h f.ones 0).1

/-! ### Bits that are no segment (40_display R84) -/

/-- A word write keeps the bits that are no segment 0, if the word written has none of them. -/
theorem Display.OnlySegments_write {m : SegMap} {b : Buffer} {w : Nat} {v : Word} {d : Display} (h : d.OnlySegments m)
    (hv : ∀ k, (∀ (p : Fin 6) (x : Fin 7), ¬(w = (segAt m p x).word ∧ k = (segAt m p x).bit)) → v.getLsbD k = false) :
    (d.write b w v).OnlySegments m := by
  intro b' w' k hk
  by_cases e1 : b' = b
  · subst e1
    by_cases e2 : w' = w
    · subst e2
      by_cases e3 : w' < 3
      · rw [Display.read_write_same _ _ _ _ e3]; exact hv k hk
      · cases b' <;> simp [Display.read, Display.write, Display.buffer, e3]
    · rw [Display.read_write_other _ _ _ e2]; exact h b' w' k hk
  · rw [Display.read_write_buffer _ _ _ _ e1]; exact h b' w' k hk

/-- A segment write touches no other bit, whatever the segment map. -/
theorem writeSegment_onlySegments {m : SegMap} {d : Display} (h : d.OnlySegments m) (b : Buffer)
    (p : Fin 6) (g : Glyph) (x : Fin 7) : (writeSegment m b p g d x).OnlySegments m := by
  unfold writeSegment setSegment clearSegment
  have one : ∀ k, k ≠ (segAt m p x).bit → (1#16 <<< (segAt m p x).bit).getLsbD k = false := by
    intro k hk
    rw [← BitVec.twoPow_eq, BitVec.getLsbD_twoPow]; simp; intro _ e; exact absurd e.symm hk
  split
  · refine Display.OnlySegments_write h fun k hk => ?_
    rw [BitVec.getLsbD_or, h b _ k hk, one k fun e => hk p x ⟨rfl, e⟩]; rfl
  · refine Display.OnlySegments_write h fun k hk => ?_
    rw [BitVec.getLsbD_and, h b _ k hk]; rfl

/-- A fold of display writes keeps what each of them keeps. -/
theorem foldl_onlySegments {m : SegMap} {α : Type} (f : Display → α → Display)
    (hf : ∀ d a, Display.OnlySegments m d → (f d a).OnlySegments m) (l : List α) {d : Display} (h : d.OnlySegments m) :
    (l.foldl f d).OnlySegments m := by
  induction l generalizing d with
  | nil => exact h
  | cons a l ih => exact ih (hf d a h)

/-- A glyph write touches segment bits only. -/
theorem writeGlyph_onlySegments {m : SegMap} {d : Display} (h : d.OnlySegments m) (b : Buffer)
    (p : Fin 6) (g : Glyph) : (writeGlyph m b p g d).OnlySegments m :=
  foldl_onlySegments _ (fun _ x hd => writeSegment_onlySegments hd b p g x) _ h

theorem blankBuffer_onlySegments {m : SegMap} {d : Display} (h : d.OnlySegments m) (b : Buffer) :
    (blankBuffer m b d).OnlySegments m :=
  foldl_onlySegments _ (fun _ p hd => writeGlyph_onlySegments hd b p 0) _ h

theorem showPrimary_onlySegments {m : SegMap} {d : Display} (bl : BlinkMode) (h : d.OnlySegments m) :
    (showPrimary bl d).OnlySegments m := by
  intro b w k hk
  have : (showPrimary bl d).read b w = d.read b w := by cases b <;> rfl
  rw [this]; exact h b w k hk

/-- The hardware clear leaves every bit 0 (40_display R84). -/
theorem hwClear_onlySegments (m : SegMap) (d : Display) : (hwClear d).OnlySegments m := by
  intro b w k _
  cases b <;> simp only [Display.read, Display.buffer, hwClear] <;> (rcases w with _ | _ | _ | w <;> simp)

theorem paintSettingPage_onlySegments {m : SegMap} {d : Display} (t : Setting) (h : d.OnlySegments m) :
    (paintSettingPage m t d).OnlySegments m :=
  showPrimary_onlySegments _
    (writeGlyph_onlySegments
      (blankBuffer_onlySegments (foldl_onlySegments _ (fun _ p hd => writeGlyph_onlySegments hd _ p _) _ h) _) _ _ _)

theorem paintDayPage_onlySegments {m : SegMap} {d : Display} (n : Nat) (h : d.OnlySegments m) :
    (paintDayPage m n d).OnlySegments m :=
  foldl_onlySegments _ (fun _ p hd => writeGlyph_onlySegments hd _ p _) _ h

theorem paintError_onlySegments {m : SegMap} {d : Display} (n : Nat) (h : d.OnlySegments m) :
    (paintError m n d).OnlySegments m :=
  showPrimary_onlySegments _
    (blankBuffer_onlySegments (foldl_onlySegments _ (fun _ p hd => writeGlyph_onlySegments hd _ p _) _ h) _)

theorem paintTerminal_onlySegments {m : SegMap} {d : Display} (h : d.OnlySegments m) :
    (paintTerminal m d).OnlySegments m :=
  showPrimary_onlySegments _
    (foldl_onlySegments _ (fun _ p hd => writeGlyph_onlySegments (writeGlyph_onlySegments hd _ p _) _ p _) _ h)

end Sys2Proof.Machine
end

