-- ==== Sys2Proof/Laws/Memory.lean ====
section
/-! SUPPORT. The durable memory: read after write, and the canonical form kept by every write. -/

namespace Sys2Proof.Machine

theorem Memory.wfFrom_mono {m : Memory} : ∀ {lo lo' : Nat}, lo' ≤ lo → Memory.wfFrom lo m = true → Memory.wfFrom lo' m = true := by
  intro lo lo' h hm
  cases m with
  | nil => rfl
  | cons e m =>
    simp only [Memory.wfFrom, Bool.and_eq_true, decide_eq_true_eq] at hm ⊢
    exact ⟨⟨⟨Nat.le_trans h hm.1.1.1, hm.1.1.2⟩, hm.1.2⟩, hm.2⟩

/-- A word below every listed address reads as an unlisted one. -/
theorem Memory.read_below {m : Memory} : ∀ {lo a : Nat}, Memory.wfFrom lo m = true → a < lo → m.read a = Memory.blank := by
  induction m with
  | nil => intro lo a _ _; rfl
  | cons e m ih =>
    intro lo a hm ha
    obtain ⟨b, u⟩ := e
    simp only [Memory.wfFrom, Bool.and_eq_true, decide_eq_true_eq] at hm
    have hne : a ≠ b := by omega
    simp only [Memory.read, if_neg hne]
    exact ih hm.2 (by omega)

/-- A read after a write of the same word gives the value written. -/
theorem Memory.read_write_same {m : Memory} (a : Nat) (v : Word) :
    ∀ {lo : Nat}, Memory.wfFrom lo m = true → (m.write a v).read a = v := by
  induction m with
  | nil =>
    intro lo _
    by_cases hv : v = Memory.blank
    · simp [Memory.write, Memory.read, hv]
    · simp [Memory.write, Memory.read, hv]
  | cons e m ih =>
    intro lo hm
    obtain ⟨b, u⟩ := e
    have hm' := hm
    simp only [Memory.wfFrom, Bool.and_eq_true, decide_eq_true_eq] at hm
    by_cases hlt : a < b
    · by_cases hv : v = Memory.blank
      · have hne : a ≠ b := by omega
        simp only [Memory.write, if_pos hlt, if_pos hv, Memory.read, if_neg hne]
        rw [Memory.read_below hm.2 (by omega), hv]
      · simp [Memory.write, hlt, hv, Memory.read]
    · by_cases heq : a = b
      · subst heq
        by_cases hv : v = Memory.blank
        · simp only [Memory.write, if_neg hlt, if_true, if_pos hv]
          rw [Memory.read_below hm.2 (by omega), hv]
        · simp [Memory.write, hv, Memory.read]
      · simp only [Memory.write, if_neg hlt, if_neg heq, Memory.read]
        exact ih hm.2

/-- A write leaves every other word alone. -/
theorem Memory.read_write_other {m : Memory} {a a' : Nat} (v : Word) (h : a' ≠ a) :
    (m.write a v).read a' = m.read a' := by
  induction m with
  | nil =>
    by_cases hv : v = Memory.blank
    · simp [Memory.write, hv]
    · simp [Memory.write, hv, Memory.read, h]
  | cons e m ih =>
    obtain ⟨b, u⟩ := e
    by_cases hlt : a < b
    · by_cases hv : v = Memory.blank
      · simp [Memory.write, hlt, hv]
      · simp [Memory.write, hlt, hv, Memory.read, h]
    · by_cases heq : a = b
      · subst heq
        by_cases hv : v = Memory.blank
        · simp [Memory.write, hv, Memory.read, h]
        · simp [Memory.write, hv, Memory.read, h]
      · simp only [Memory.write, if_neg hlt, if_neg heq, Memory.read, ih]

theorem Memory.wfFrom_write {m : Memory} (a : Nat) (v : Word) (ha : a < Config.durWords) :
    ∀ {lo : Nat}, lo ≤ a → Memory.wfFrom lo m = true → Memory.wfFrom lo (m.write a v) = true := by
  induction m with
  | nil =>
    intro lo hlo _
    by_cases hv : v = Memory.blank
    · simp [Memory.write, hv, Memory.wfFrom]
    · simp [Memory.write, hv, Memory.wfFrom, hlo, ha]
  | cons e m ih =>
    intro lo hlo hm
    obtain ⟨b, u⟩ := e
    have hm' := hm
    simp only [Memory.wfFrom, Bool.and_eq_true, decide_eq_true_eq] at hm
    obtain ⟨⟨⟨h1, h2⟩, h3⟩, h4⟩ := hm
    by_cases hlt : a < b
    · by_cases hv : v = Memory.blank
      · simpa [Memory.write, hlt, hv] using hm'
      · simp only [Memory.write, if_pos hlt, if_neg hv, Memory.wfFrom, Bool.and_eq_true, decide_eq_true_eq]
        refine ⟨⟨⟨hlo, ha⟩, by simpa using hv⟩, ⟨⟨by omega, h2⟩, h3⟩, h4⟩
    · by_cases heq : a = b
      · subst heq
        by_cases hv : v = Memory.blank
        · simp only [Memory.write, if_neg hlt, if_true, if_pos hv]
          exact Memory.wfFrom_mono (by omega) h4
        · simp only [Memory.write, if_neg hlt, if_true, if_neg hv, Memory.wfFrom, Bool.and_eq_true, decide_eq_true_eq]
          exact ⟨⟨⟨h1, h2⟩, by simpa using hv⟩, h4⟩
      · simp only [Memory.write, if_neg hlt, if_neg heq, Memory.wfFrom, Bool.and_eq_true, decide_eq_true_eq]
        exact ⟨⟨⟨h1, h2⟩, h3⟩, ih (by omega) h4⟩

/-- Every write of a word of the memory keeps the canonical form. -/
theorem Memory.wf_write {m : Memory} {a : Nat} (v : Word) (ha : a < Config.durWords) (h : m.wf = true) :
    (m.write a v).wf = true :=
  Memory.wfFrom_write a v ha (Nat.zero_le a) h

/-- The manufacture memory is canonical. -/
theorem Memory.wf_reset : State.reset.dur.wf = true := rfl

/-- Two canonical memories that read the same everywhere are the same data. -/
theorem Memory.ext_of_wf {m m' : Memory} : ∀ {lo : Nat}, Memory.wfFrom lo m = true → Memory.wfFrom lo m' = true →
    (∀ a, m.read a = m'.read a) → m = m' := by
  induction m generalizing m' with
  | nil =>
    intro lo _ hm' hr
    cases m' with
    | nil => rfl
    | cons e m' =>
      obtain ⟨b, u⟩ := e
      simp only [Memory.wfFrom, Bool.and_eq_true] at hm'
      have := hr b
      simp [Memory.read] at this
      exact absurd this.symm (by simpa using hm'.1.2)
  | cons e m ih =>
    intro lo hm hm' hr
    obtain ⟨b, u⟩ := e
    have hm0 := hm
    simp only [Memory.wfFrom, Bool.and_eq_true, decide_eq_true_eq] at hm
    have hu : u ≠ Memory.blank := by simpa using hm.1.2
    cases m' with
    | nil => exact absurd (by simpa [Memory.read] using hr b) hu
    | cons e' m' =>
      obtain ⟨b', u'⟩ := e'
      have hm0' := hm'
      simp only [Memory.wfFrom, Bool.and_eq_true, decide_eq_true_eq] at hm'
      have hu' : u' ≠ Memory.blank := by simpa using hm'.1.2
      have hb : b = b' := by
        rcases Nat.lt_trichotomy b b' with h | h | h
        · have h1 := hr b
          have h2 : Memory.read ((b', u') :: m') b = Memory.blank :=
            Memory.read_below (lo := b + 1)
              (by simp only [Memory.wfFrom, Bool.and_eq_true, decide_eq_true_eq]; exact ⟨⟨⟨h, hm'.1.1.2⟩, hm'.1.2⟩, hm'.2⟩)
              (by omega)
          rw [h2] at h1
          exact absurd (by simpa [Memory.read] using h1) hu
        · exact h
        · have h1 := hr b'
          have h2 : Memory.read ((b, u) :: m) b' = Memory.blank :=
            Memory.read_below (lo := b' + 1)
              (by simp only [Memory.wfFrom, Bool.and_eq_true, decide_eq_true_eq]; exact ⟨⟨⟨h, hm.1.1.2⟩, hm.1.2⟩, hm.2⟩)
              (by omega)
          rw [h2] at h1
          exact absurd (by simpa [Memory.read] using h1.symm) hu'
      subst hb
      have hv : u = u' := by simpa [Memory.read] using hr b
      subst hv
      have htail : m = m' := by
        refine ih hm.2 hm'.2 fun a => ?_
        by_cases ha : a = b
        · rw [Memory.read_below hm.2 (by omega), Memory.read_below hm'.2 (by omega)]
        · simpa [Memory.read, ha] using hr a
      rw [htail]

end Sys2Proof.Machine
end

