-- ==== Sys2Proof/Laws/State.lean ====
section
/-! SUPPORT. One lemma per field per named update of State, true by rfl, so that no later proof unfolds an update. -/

namespace Sys2Proof.Machine

variable (s : State)

/-! ### State.enqueue -/

@[simp] theorem State.enqueue_params (us : List Uop) : (s.enqueue us).params = s.params := rfl
@[simp] theorem State.enqueue_eng (us : List Uop) : (s.enqueue us).eng = s.eng := rfl
@[simp] theorem State.enqueue_mode (us : List Uop) : (s.enqueue us).mode = s.mode := rfl
@[simp] theorem State.enqueue_errCode (us : List Uop) : (s.enqueue us).errCode = s.errCode := rfl
@[simp] theorem State.enqueue_sec (us : List Uop) : (s.enqueue us).sec = s.sec := rfl
@[simp] theorem State.enqueue_min (us : List Uop) : (s.enqueue us).min = s.min := rfl
@[simp] theorem State.enqueue_hr (us : List Uop) : (s.enqueue us).hr = s.hr := rfl
@[simp] theorem State.enqueue_days (us : List Uop) : (s.enqueue us).days = s.days := rfl
@[simp] theorem State.enqueue_page (us : List Uop) : (s.enqueue us).page = s.page := rfl
@[simp] theorem State.enqueue_cent (us : List Uop) : (s.enqueue us).cent = s.cent := rfl
@[simp] theorem State.enqueue_midf (us : List Uop) : (s.enqueue us).midf = s.midf := rfl
@[simp] theorem State.enqueue_setting (us : List Uop) : (s.enqueue us).setting = s.setting := rfl
@[simp] theorem State.enqueue_pin (us : List Uop) : (s.enqueue us).pin = s.pin := rfl
@[simp] theorem State.enqueue_edge (us : List Uop) : (s.enqueue us).edge = s.edge := rfl
@[simp] theorem State.enqueue_armed (us : List Uop) : (s.enqueue us).armed = s.armed := rfl
@[simp] theorem State.enqueue_ifg (us : List Uop) : (s.enqueue us).ifg = s.ifg := rfl
@[simp] theorem State.enqueue_ie (us : List Uop) : (s.enqueue us).ie = s.ie := rfl
@[simp] theorem State.enqueue_debActive (us : List Uop) : (s.enqueue us).debActive = s.debActive := rfl
@[simp] theorem State.enqueue_debSet (us : List Uop) : (s.enqueue us).debSet = s.debSet := rfl
@[simp] theorem State.enqueue_tickIfg (us : List Uop) : (s.enqueue us).tickIfg = s.tickIfg := rfl
@[simp] theorem State.enqueue_tickIe (us : List Uop) : (s.enqueue us).tickIe = s.tickIe := rfl
@[simp] theorem State.enqueue_tickLost (us : List Uop) : (s.enqueue us).tickLost = s.tickLost := rfl
@[simp] theorem State.enqueue_cmdReject (us : List Uop) : (s.enqueue us).cmdReject = s.cmdReject := rfl
@[simp] theorem State.enqueue_rejectReason (us : List Uop) : (s.enqueue us).rejectReason = s.rejectReason := rfl
@[simp] theorem State.enqueue_wpFault (us : List Uop) : (s.enqueue us).wpFault = s.wpFault := rfl
@[simp] theorem State.enqueue_cacheValid (us : List Uop) : (s.enqueue us).cacheValid = s.cacheValid := rfl
@[simp] theorem State.enqueue_display (us : List Uop) : (s.enqueue us).display = s.display := rfl
@[simp] theorem State.enqueue_cache (us : List Uop) : (s.enqueue us).cache = s.cache := rfl
@[simp] theorem State.enqueue_dur (us : List Uop) : (s.enqueue us).dur = s.dur := rfl
@[simp] theorem State.enqueue_wp (us : List Uop) : (s.enqueue us).wp = s.wp := rfl
@[simp] theorem State.enqueue_tsLatch (us : List Uop) : (s.enqueue us).tsLatch = s.tsLatch := rfl
@[simp] theorem State.enqueue_uq (us : List Uop) : (s.enqueue us).uq = s.uq ++ us := rfl
@[simp] theorem State.enqueue_out (us : List Uop) : (s.enqueue us).out = s.out := rfl
@[simp] theorem State.enqueue_offers (us : List Uop) : (s.enqueue us).offers = s.offers := rfl
@[simp] theorem State.enqueue_powerUps (us : List Uop) : (s.enqueue us).powerUps = s.powerUps := rfl

/-! ### State.writeDurable -/

@[simp] theorem State.writeDurable_params (r : Record) (n : List Word) : (s.writeDurable r n).params = s.params := rfl
@[simp] theorem State.writeDurable_eng (r : Record) (n : List Word) : (s.writeDurable r n).eng = s.eng := rfl
@[simp] theorem State.writeDurable_mode (r : Record) (n : List Word) : (s.writeDurable r n).mode = s.mode := rfl
@[simp] theorem State.writeDurable_errCode (r : Record) (n : List Word) : (s.writeDurable r n).errCode = s.errCode := rfl
@[simp] theorem State.writeDurable_sec (r : Record) (n : List Word) : (s.writeDurable r n).sec = s.sec := rfl
@[simp] theorem State.writeDurable_min (r : Record) (n : List Word) : (s.writeDurable r n).min = s.min := rfl
@[simp] theorem State.writeDurable_hr (r : Record) (n : List Word) : (s.writeDurable r n).hr = s.hr := rfl
@[simp] theorem State.writeDurable_days (r : Record) (n : List Word) : (s.writeDurable r n).days = s.days := rfl
@[simp] theorem State.writeDurable_page (r : Record) (n : List Word) : (s.writeDurable r n).page = s.page := rfl
@[simp] theorem State.writeDurable_cent (r : Record) (n : List Word) : (s.writeDurable r n).cent = s.cent := rfl
@[simp] theorem State.writeDurable_midf (r : Record) (n : List Word) : (s.writeDurable r n).midf = s.midf := rfl
@[simp] theorem State.writeDurable_setting (r : Record) (n : List Word) : (s.writeDurable r n).setting = s.setting := rfl
@[simp] theorem State.writeDurable_pin (r : Record) (n : List Word) : (s.writeDurable r n).pin = s.pin := rfl
@[simp] theorem State.writeDurable_edge (r : Record) (n : List Word) : (s.writeDurable r n).edge = s.edge := rfl
@[simp] theorem State.writeDurable_armed (r : Record) (n : List Word) : (s.writeDurable r n).armed = s.armed := rfl
@[simp] theorem State.writeDurable_ifg (r : Record) (n : List Word) : (s.writeDurable r n).ifg = s.ifg := rfl
@[simp] theorem State.writeDurable_ie (r : Record) (n : List Word) : (s.writeDurable r n).ie = s.ie := rfl
@[simp] theorem State.writeDurable_debActive (r : Record) (n : List Word) : (s.writeDurable r n).debActive = s.debActive := rfl
@[simp] theorem State.writeDurable_debSet (r : Record) (n : List Word) : (s.writeDurable r n).debSet = s.debSet := rfl
@[simp] theorem State.writeDurable_tickIfg (r : Record) (n : List Word) : (s.writeDurable r n).tickIfg = s.tickIfg := rfl
@[simp] theorem State.writeDurable_tickIe (r : Record) (n : List Word) : (s.writeDurable r n).tickIe = s.tickIe := rfl
@[simp] theorem State.writeDurable_tickLost (r : Record) (n : List Word) : (s.writeDurable r n).tickLost = s.tickLost := rfl
@[simp] theorem State.writeDurable_cmdReject (r : Record) (n : List Word) : (s.writeDurable r n).cmdReject = s.cmdReject := rfl
@[simp] theorem State.writeDurable_rejectReason (r : Record) (n : List Word) : (s.writeDurable r n).rejectReason = s.rejectReason := rfl
@[simp] theorem State.writeDurable_wpFault (r : Record) (n : List Word) : (s.writeDurable r n).wpFault = s.wpFault := rfl
@[simp] theorem State.writeDurable_cacheValid (r : Record) (n : List Word) : (s.writeDurable r n).cacheValid = s.cacheValid := rfl
@[simp] theorem State.writeDurable_display (r : Record) (n : List Word) : (s.writeDurable r n).display = s.display := rfl
@[simp] theorem State.writeDurable_cache (r : Record) (n : List Word) : (s.writeDurable r n).cache = s.cache := rfl
@[simp] theorem State.writeDurable_dur (r : Record) (n : List Word) : (s.writeDurable r n).dur = s.dur := rfl
@[simp] theorem State.writeDurable_wp (r : Record) (n : List Word) : (s.writeDurable r n).wp = s.wp := rfl
@[simp] theorem State.writeDurable_tsLatch (r : Record) (n : List Word) : (s.writeDurable r n).tsLatch = s.tsLatch := rfl
@[simp] theorem State.writeDurable_uq (r : Record) (n : List Word) : (s.writeDurable r n).uq = s.uq ++ s.dur.recordUops r n := rfl
@[simp] theorem State.writeDurable_out (r : Record) (n : List Word) : (s.writeDurable r n).out = s.out := rfl
@[simp] theorem State.writeDurable_offers (r : Record) (n : List Word) : (s.writeDurable r n).offers = s.offers := rfl
@[simp] theorem State.writeDurable_powerUps (r : Record) (n : List Word) : (s.writeDurable r n).powerUps = s.powerUps := rfl

/-! ### State.repairRecord -/

@[simp] theorem State.repairRecord_params (r : Record) : (s.repairRecord r).params = s.params := rfl
@[simp] theorem State.repairRecord_eng (r : Record) : (s.repairRecord r).eng = s.eng := rfl
@[simp] theorem State.repairRecord_mode (r : Record) : (s.repairRecord r).mode = s.mode := rfl
@[simp] theorem State.repairRecord_errCode (r : Record) : (s.repairRecord r).errCode = s.errCode := rfl
@[simp] theorem State.repairRecord_sec (r : Record) : (s.repairRecord r).sec = s.sec := rfl
@[simp] theorem State.repairRecord_min (r : Record) : (s.repairRecord r).min = s.min := rfl
@[simp] theorem State.repairRecord_hr (r : Record) : (s.repairRecord r).hr = s.hr := rfl
@[simp] theorem State.repairRecord_days (r : Record) : (s.repairRecord r).days = s.days := rfl
@[simp] theorem State.repairRecord_page (r : Record) : (s.repairRecord r).page = s.page := rfl
@[simp] theorem State.repairRecord_cent (r : Record) : (s.repairRecord r).cent = s.cent := rfl
@[simp] theorem State.repairRecord_midf (r : Record) : (s.repairRecord r).midf = s.midf := rfl
@[simp] theorem State.repairRecord_setting (r : Record) : (s.repairRecord r).setting = s.setting := rfl
@[simp] theorem State.repairRecord_pin (r : Record) : (s.repairRecord r).pin = s.pin := rfl
@[simp] theorem State.repairRecord_edge (r : Record) : (s.repairRecord r).edge = s.edge := rfl
@[simp] theorem State.repairRecord_armed (r : Record) : (s.repairRecord r).armed = s.armed := rfl
@[simp] theorem State.repairRecord_ifg (r : Record) : (s.repairRecord r).ifg = s.ifg := rfl
@[simp] theorem State.repairRecord_ie (r : Record) : (s.repairRecord r).ie = s.ie := rfl
@[simp] theorem State.repairRecord_debActive (r : Record) : (s.repairRecord r).debActive = s.debActive := rfl
@[simp] theorem State.repairRecord_debSet (r : Record) : (s.repairRecord r).debSet = s.debSet := rfl
@[simp] theorem State.repairRecord_tickIfg (r : Record) : (s.repairRecord r).tickIfg = s.tickIfg := rfl
@[simp] theorem State.repairRecord_tickIe (r : Record) : (s.repairRecord r).tickIe = s.tickIe := rfl
@[simp] theorem State.repairRecord_tickLost (r : Record) : (s.repairRecord r).tickLost = s.tickLost := rfl
@[simp] theorem State.repairRecord_cmdReject (r : Record) : (s.repairRecord r).cmdReject = s.cmdReject := rfl
@[simp] theorem State.repairRecord_rejectReason (r : Record) : (s.repairRecord r).rejectReason = s.rejectReason := rfl
@[simp] theorem State.repairRecord_wpFault (r : Record) : (s.repairRecord r).wpFault = s.wpFault := rfl
@[simp] theorem State.repairRecord_cacheValid (r : Record) : (s.repairRecord r).cacheValid = s.cacheValid := rfl
@[simp] theorem State.repairRecord_display (r : Record) : (s.repairRecord r).display = s.display := rfl
@[simp] theorem State.repairRecord_cache (r : Record) : (s.repairRecord r).cache = s.cache := rfl
@[simp] theorem State.repairRecord_dur (r : Record) : (s.repairRecord r).dur = s.dur := rfl
@[simp] theorem State.repairRecord_wp (r : Record) : (s.repairRecord r).wp = s.wp := rfl
@[simp] theorem State.repairRecord_tsLatch (r : Record) : (s.repairRecord r).tsLatch = s.tsLatch := rfl
@[simp] theorem State.repairRecord_uq (r : Record) : (s.repairRecord r).uq = s.uq ++ s.dur.repairList r := rfl
@[simp] theorem State.repairRecord_out (r : Record) : (s.repairRecord r).out = s.out := rfl
@[simp] theorem State.repairRecord_offers (r : Record) : (s.repairRecord r).offers = s.offers := rfl
@[simp] theorem State.repairRecord_powerUps (r : Record) : (s.repairRecord r).powerUps = s.powerUps := rfl

/-! ### State.reject -/

@[simp] theorem State.reject_params (r : BitVec 2) : (s.reject r).params = s.params := rfl
@[simp] theorem State.reject_eng (r : BitVec 2) : (s.reject r).eng = s.eng := rfl
@[simp] theorem State.reject_mode (r : BitVec 2) : (s.reject r).mode = s.mode := rfl
@[simp] theorem State.reject_errCode (r : BitVec 2) : (s.reject r).errCode = s.errCode := rfl
@[simp] theorem State.reject_sec (r : BitVec 2) : (s.reject r).sec = s.sec := rfl
@[simp] theorem State.reject_min (r : BitVec 2) : (s.reject r).min = s.min := rfl
@[simp] theorem State.reject_hr (r : BitVec 2) : (s.reject r).hr = s.hr := rfl
@[simp] theorem State.reject_days (r : BitVec 2) : (s.reject r).days = s.days := rfl
@[simp] theorem State.reject_page (r : BitVec 2) : (s.reject r).page = s.page := rfl
@[simp] theorem State.reject_cent (r : BitVec 2) : (s.reject r).cent = s.cent := rfl
@[simp] theorem State.reject_midf (r : BitVec 2) : (s.reject r).midf = s.midf := rfl
@[simp] theorem State.reject_setting (r : BitVec 2) : (s.reject r).setting = s.setting := rfl
@[simp] theorem State.reject_pin (r : BitVec 2) : (s.reject r).pin = s.pin := rfl
@[simp] theorem State.reject_edge (r : BitVec 2) : (s.reject r).edge = s.edge := rfl
@[simp] theorem State.reject_armed (r : BitVec 2) : (s.reject r).armed = s.armed := rfl
@[simp] theorem State.reject_ifg (r : BitVec 2) : (s.reject r).ifg = s.ifg := rfl
@[simp] theorem State.reject_ie (r : BitVec 2) : (s.reject r).ie = s.ie := rfl
@[simp] theorem State.reject_debActive (r : BitVec 2) : (s.reject r).debActive = s.debActive := rfl
@[simp] theorem State.reject_debSet (r : BitVec 2) : (s.reject r).debSet = s.debSet := rfl
@[simp] theorem State.reject_tickIfg (r : BitVec 2) : (s.reject r).tickIfg = s.tickIfg := rfl
@[simp] theorem State.reject_tickIe (r : BitVec 2) : (s.reject r).tickIe = s.tickIe := rfl
@[simp] theorem State.reject_tickLost (r : BitVec 2) : (s.reject r).tickLost = s.tickLost := rfl
@[simp] theorem State.reject_cmdReject (r : BitVec 2) : (s.reject r).cmdReject = true := rfl
@[simp] theorem State.reject_rejectReason (r : BitVec 2) : (s.reject r).rejectReason = r := rfl
@[simp] theorem State.reject_wpFault (r : BitVec 2) : (s.reject r).wpFault = s.wpFault := rfl
@[simp] theorem State.reject_cacheValid (r : BitVec 2) : (s.reject r).cacheValid = s.cacheValid := rfl
@[simp] theorem State.reject_display (r : BitVec 2) : (s.reject r).display = s.display := rfl
@[simp] theorem State.reject_cache (r : BitVec 2) : (s.reject r).cache = s.cache := rfl
@[simp] theorem State.reject_dur (r : BitVec 2) : (s.reject r).dur = s.dur := rfl
@[simp] theorem State.reject_wp (r : BitVec 2) : (s.reject r).wp = s.wp := rfl
@[simp] theorem State.reject_tsLatch (r : BitVec 2) : (s.reject r).tsLatch = s.tsLatch := rfl
@[simp] theorem State.reject_uq (r : BitVec 2) : (s.reject r).uq = s.uq := rfl
@[simp] theorem State.reject_out (r : BitVec 2) : (s.reject r).out = s.out := rfl
@[simp] theorem State.reject_offers (r : BitVec 2) : (s.reject r).offers = s.offers := rfl
@[simp] theorem State.reject_powerUps (r : BitVec 2) : (s.reject r).powerUps = s.powerUps := rfl

/-! ### State.paint -/

@[simp] theorem State.paint_params (f : SegMap → Display → Display) : (s.paint f).params = s.params := rfl
@[simp] theorem State.paint_eng (f : SegMap → Display → Display) : (s.paint f).eng = s.eng := rfl
@[simp] theorem State.paint_mode (f : SegMap → Display → Display) : (s.paint f).mode = s.mode := rfl
@[simp] theorem State.paint_errCode (f : SegMap → Display → Display) : (s.paint f).errCode = s.errCode := rfl
@[simp] theorem State.paint_sec (f : SegMap → Display → Display) : (s.paint f).sec = s.sec := rfl
@[simp] theorem State.paint_min (f : SegMap → Display → Display) : (s.paint f).min = s.min := rfl
@[simp] theorem State.paint_hr (f : SegMap → Display → Display) : (s.paint f).hr = s.hr := rfl
@[simp] theorem State.paint_days (f : SegMap → Display → Display) : (s.paint f).days = s.days := rfl
@[simp] theorem State.paint_page (f : SegMap → Display → Display) : (s.paint f).page = s.page := rfl
@[simp] theorem State.paint_cent (f : SegMap → Display → Display) : (s.paint f).cent = s.cent := rfl
@[simp] theorem State.paint_midf (f : SegMap → Display → Display) : (s.paint f).midf = s.midf := rfl
@[simp] theorem State.paint_setting (f : SegMap → Display → Display) : (s.paint f).setting = s.setting := rfl
@[simp] theorem State.paint_pin (f : SegMap → Display → Display) : (s.paint f).pin = s.pin := rfl
@[simp] theorem State.paint_edge (f : SegMap → Display → Display) : (s.paint f).edge = s.edge := rfl
@[simp] theorem State.paint_armed (f : SegMap → Display → Display) : (s.paint f).armed = s.armed := rfl
@[simp] theorem State.paint_ifg (f : SegMap → Display → Display) : (s.paint f).ifg = s.ifg := rfl
@[simp] theorem State.paint_ie (f : SegMap → Display → Display) : (s.paint f).ie = s.ie := rfl
@[simp] theorem State.paint_debActive (f : SegMap → Display → Display) : (s.paint f).debActive = s.debActive := rfl
@[simp] theorem State.paint_debSet (f : SegMap → Display → Display) : (s.paint f).debSet = s.debSet := rfl
@[simp] theorem State.paint_tickIfg (f : SegMap → Display → Display) : (s.paint f).tickIfg = s.tickIfg := rfl
@[simp] theorem State.paint_tickIe (f : SegMap → Display → Display) : (s.paint f).tickIe = s.tickIe := rfl
@[simp] theorem State.paint_tickLost (f : SegMap → Display → Display) : (s.paint f).tickLost = s.tickLost := rfl
@[simp] theorem State.paint_cmdReject (f : SegMap → Display → Display) : (s.paint f).cmdReject = s.cmdReject := rfl
@[simp] theorem State.paint_rejectReason (f : SegMap → Display → Display) : (s.paint f).rejectReason = s.rejectReason := rfl
@[simp] theorem State.paint_wpFault (f : SegMap → Display → Display) : (s.paint f).wpFault = s.wpFault := rfl
@[simp] theorem State.paint_cacheValid (f : SegMap → Display → Display) : (s.paint f).cacheValid = s.cacheValid := rfl
@[simp] theorem State.paint_display (f : SegMap → Display → Display) : (s.paint f).display = f s.params.segMap s.display := rfl
@[simp] theorem State.paint_cache (f : SegMap → Display → Display) : (s.paint f).cache = s.cache := rfl
@[simp] theorem State.paint_dur (f : SegMap → Display → Display) : (s.paint f).dur = s.dur := rfl
@[simp] theorem State.paint_wp (f : SegMap → Display → Display) : (s.paint f).wp = s.wp := rfl
@[simp] theorem State.paint_tsLatch (f : SegMap → Display → Display) : (s.paint f).tsLatch = s.tsLatch := rfl
@[simp] theorem State.paint_uq (f : SegMap → Display → Display) : (s.paint f).uq = s.uq := rfl
@[simp] theorem State.paint_out (f : SegMap → Display → Display) : (s.paint f).out = s.out := rfl
@[simp] theorem State.paint_offers (f : SegMap → Display → Display) : (s.paint f).offers = s.offers := rfl
@[simp] theorem State.paint_powerUps (f : SegMap → Display → Display) : (s.paint f).powerUps = s.powerUps := rfl

/-! ### State.showField -/

@[simp] theorem State.showField_params (f : Field) (v : Nat) : (s.showField f v).params = s.params := rfl
@[simp] theorem State.showField_eng (f : Field) (v : Nat) : (s.showField f v).eng = s.eng := rfl
@[simp] theorem State.showField_mode (f : Field) (v : Nat) : (s.showField f v).mode = s.mode := rfl
@[simp] theorem State.showField_errCode (f : Field) (v : Nat) : (s.showField f v).errCode = s.errCode := rfl
@[simp] theorem State.showField_sec (f : Field) (v : Nat) : (s.showField f v).sec = s.sec := rfl
@[simp] theorem State.showField_min (f : Field) (v : Nat) : (s.showField f v).min = s.min := rfl
@[simp] theorem State.showField_hr (f : Field) (v : Nat) : (s.showField f v).hr = s.hr := rfl
@[simp] theorem State.showField_days (f : Field) (v : Nat) : (s.showField f v).days = s.days := rfl
@[simp] theorem State.showField_page (f : Field) (v : Nat) : (s.showField f v).page = s.page := rfl
@[simp] theorem State.showField_cent (f : Field) (v : Nat) : (s.showField f v).cent = s.cent := rfl
@[simp] theorem State.showField_midf (f : Field) (v : Nat) : (s.showField f v).midf = s.midf := rfl
@[simp] theorem State.showField_setting (f : Field) (v : Nat) : (s.showField f v).setting = s.setting := rfl
@[simp] theorem State.showField_pin (f : Field) (v : Nat) : (s.showField f v).pin = s.pin := rfl
@[simp] theorem State.showField_edge (f : Field) (v : Nat) : (s.showField f v).edge = s.edge := rfl
@[simp] theorem State.showField_armed (f : Field) (v : Nat) : (s.showField f v).armed = s.armed := rfl
@[simp] theorem State.showField_ifg (f : Field) (v : Nat) : (s.showField f v).ifg = s.ifg := rfl
@[simp] theorem State.showField_ie (f : Field) (v : Nat) : (s.showField f v).ie = s.ie := rfl
@[simp] theorem State.showField_debActive (f : Field) (v : Nat) : (s.showField f v).debActive = s.debActive := rfl
@[simp] theorem State.showField_debSet (f : Field) (v : Nat) : (s.showField f v).debSet = s.debSet := rfl
@[simp] theorem State.showField_tickIfg (f : Field) (v : Nat) : (s.showField f v).tickIfg = s.tickIfg := rfl
@[simp] theorem State.showField_tickIe (f : Field) (v : Nat) : (s.showField f v).tickIe = s.tickIe := rfl
@[simp] theorem State.showField_tickLost (f : Field) (v : Nat) : (s.showField f v).tickLost = s.tickLost := rfl
@[simp] theorem State.showField_cmdReject (f : Field) (v : Nat) : (s.showField f v).cmdReject = s.cmdReject := rfl
@[simp] theorem State.showField_rejectReason (f : Field) (v : Nat) : (s.showField f v).rejectReason = s.rejectReason := rfl
@[simp] theorem State.showField_wpFault (f : Field) (v : Nat) : (s.showField f v).wpFault = s.wpFault := rfl
@[simp] theorem State.showField_cacheValid (f : Field) (v : Nat) : (s.showField f v).cacheValid = s.cacheValid := rfl
@[simp] theorem State.showField_display (f : Field) (v : Nat) : (s.showField f v).display = fieldWrite s.params.segMap s.cache .primary f v s.display := rfl
@[simp] theorem State.showField_cache (f : Field) (v : Nat) : (s.showField f v).cache = s.cache := rfl
@[simp] theorem State.showField_dur (f : Field) (v : Nat) : (s.showField f v).dur = s.dur := rfl
@[simp] theorem State.showField_wp (f : Field) (v : Nat) : (s.showField f v).wp = s.wp := rfl
@[simp] theorem State.showField_tsLatch (f : Field) (v : Nat) : (s.showField f v).tsLatch = s.tsLatch := rfl
@[simp] theorem State.showField_uq (f : Field) (v : Nat) : (s.showField f v).uq = s.uq := rfl
@[simp] theorem State.showField_out (f : Field) (v : Nat) : (s.showField f v).out = s.out := rfl
@[simp] theorem State.showField_offers (f : Field) (v : Nat) : (s.showField f v).offers = s.offers := rfl
@[simp] theorem State.showField_powerUps (f : Field) (v : Nat) : (s.showField f v).powerUps = s.powerUps := rfl

/-! ### State.showSec -/

@[simp] theorem State.showSec_params (v : BitVec 6) : (s.showSec v).params = s.params := rfl
@[simp] theorem State.showSec_eng (v : BitVec 6) : (s.showSec v).eng = s.eng := rfl
@[simp] theorem State.showSec_mode (v : BitVec 6) : (s.showSec v).mode = s.mode := rfl
@[simp] theorem State.showSec_errCode (v : BitVec 6) : (s.showSec v).errCode = s.errCode := rfl
@[simp] theorem State.showSec_sec (v : BitVec 6) : (s.showSec v).sec = v := rfl
@[simp] theorem State.showSec_min (v : BitVec 6) : (s.showSec v).min = s.min := rfl
@[simp] theorem State.showSec_hr (v : BitVec 6) : (s.showSec v).hr = s.hr := rfl
@[simp] theorem State.showSec_days (v : BitVec 6) : (s.showSec v).days = s.days := rfl
@[simp] theorem State.showSec_page (v : BitVec 6) : (s.showSec v).page = s.page := rfl
@[simp] theorem State.showSec_cent (v : BitVec 6) : (s.showSec v).cent = s.cent := rfl
@[simp] theorem State.showSec_midf (v : BitVec 6) : (s.showSec v).midf = s.midf := rfl
@[simp] theorem State.showSec_setting (v : BitVec 6) : (s.showSec v).setting = s.setting := rfl
@[simp] theorem State.showSec_pin (v : BitVec 6) : (s.showSec v).pin = s.pin := rfl
@[simp] theorem State.showSec_edge (v : BitVec 6) : (s.showSec v).edge = s.edge := rfl
@[simp] theorem State.showSec_armed (v : BitVec 6) : (s.showSec v).armed = s.armed := rfl
@[simp] theorem State.showSec_ifg (v : BitVec 6) : (s.showSec v).ifg = s.ifg := rfl
@[simp] theorem State.showSec_ie (v : BitVec 6) : (s.showSec v).ie = s.ie := rfl
@[simp] theorem State.showSec_debActive (v : BitVec 6) : (s.showSec v).debActive = s.debActive := rfl
@[simp] theorem State.showSec_debSet (v : BitVec 6) : (s.showSec v).debSet = s.debSet := rfl
@[simp] theorem State.showSec_tickIfg (v : BitVec 6) : (s.showSec v).tickIfg = s.tickIfg := rfl
@[simp] theorem State.showSec_tickIe (v : BitVec 6) : (s.showSec v).tickIe = s.tickIe := rfl
@[simp] theorem State.showSec_tickLost (v : BitVec 6) : (s.showSec v).tickLost = s.tickLost := rfl
@[simp] theorem State.showSec_cmdReject (v : BitVec 6) : (s.showSec v).cmdReject = s.cmdReject := rfl
@[simp] theorem State.showSec_rejectReason (v : BitVec 6) : (s.showSec v).rejectReason = s.rejectReason := rfl
@[simp] theorem State.showSec_wpFault (v : BitVec 6) : (s.showSec v).wpFault = s.wpFault := rfl
@[simp] theorem State.showSec_cacheValid (v : BitVec 6) : (s.showSec v).cacheValid = s.cacheValid := rfl
@[simp] theorem State.showSec_display (v : BitVec 6) : (s.showSec v).display = fieldWrite s.params.segMap s.cache .primary .sec v.toNat s.display := rfl
@[simp] theorem State.showSec_cache (v : BitVec 6) : (s.showSec v).cache = s.cache := rfl
@[simp] theorem State.showSec_dur (v : BitVec 6) : (s.showSec v).dur = s.dur := rfl
@[simp] theorem State.showSec_wp (v : BitVec 6) : (s.showSec v).wp = s.wp := rfl
@[simp] theorem State.showSec_tsLatch (v : BitVec 6) : (s.showSec v).tsLatch = s.tsLatch := rfl
@[simp] theorem State.showSec_uq (v : BitVec 6) : (s.showSec v).uq = s.uq := rfl
@[simp] theorem State.showSec_out (v : BitVec 6) : (s.showSec v).out = s.out := rfl
@[simp] theorem State.showSec_offers (v : BitVec 6) : (s.showSec v).offers = s.offers := rfl
@[simp] theorem State.showSec_powerUps (v : BitVec 6) : (s.showSec v).powerUps = s.powerUps := rfl

/-! ### State.showMin -/

@[simp] theorem State.showMin_params (v : BitVec 6) : (s.showMin v).params = s.params := rfl
@[simp] theorem State.showMin_eng (v : BitVec 6) : (s.showMin v).eng = s.eng := rfl
@[simp] theorem State.showMin_mode (v : BitVec 6) : (s.showMin v).mode = s.mode := rfl
@[simp] theorem State.showMin_errCode (v : BitVec 6) : (s.showMin v).errCode = s.errCode := rfl
@[simp] theorem State.showMin_sec (v : BitVec 6) : (s.showMin v).sec = s.sec := rfl
@[simp] theorem State.showMin_min (v : BitVec 6) : (s.showMin v).min = v := rfl
@[simp] theorem State.showMin_hr (v : BitVec 6) : (s.showMin v).hr = s.hr := rfl
@[simp] theorem State.showMin_days (v : BitVec 6) : (s.showMin v).days = s.days := rfl
@[simp] theorem State.showMin_page (v : BitVec 6) : (s.showMin v).page = s.page := rfl
@[simp] theorem State.showMin_cent (v : BitVec 6) : (s.showMin v).cent = s.cent := rfl
@[simp] theorem State.showMin_midf (v : BitVec 6) : (s.showMin v).midf = s.midf := rfl
@[simp] theorem State.showMin_setting (v : BitVec 6) : (s.showMin v).setting = s.setting := rfl
@[simp] theorem State.showMin_pin (v : BitVec 6) : (s.showMin v).pin = s.pin := rfl
@[simp] theorem State.showMin_edge (v : BitVec 6) : (s.showMin v).edge = s.edge := rfl
@[simp] theorem State.showMin_armed (v : BitVec 6) : (s.showMin v).armed = s.armed := rfl
@[simp] theorem State.showMin_ifg (v : BitVec 6) : (s.showMin v).ifg = s.ifg := rfl
@[simp] theorem State.showMin_ie (v : BitVec 6) : (s.showMin v).ie = s.ie := rfl
@[simp] theorem State.showMin_debActive (v : BitVec 6) : (s.showMin v).debActive = s.debActive := rfl
@[simp] theorem State.showMin_debSet (v : BitVec 6) : (s.showMin v).debSet = s.debSet := rfl
@[simp] theorem State.showMin_tickIfg (v : BitVec 6) : (s.showMin v).tickIfg = s.tickIfg := rfl
@[simp] theorem State.showMin_tickIe (v : BitVec 6) : (s.showMin v).tickIe = s.tickIe := rfl
@[simp] theorem State.showMin_tickLost (v : BitVec 6) : (s.showMin v).tickLost = s.tickLost := rfl
@[simp] theorem State.showMin_cmdReject (v : BitVec 6) : (s.showMin v).cmdReject = s.cmdReject := rfl
@[simp] theorem State.showMin_rejectReason (v : BitVec 6) : (s.showMin v).rejectReason = s.rejectReason := rfl
@[simp] theorem State.showMin_wpFault (v : BitVec 6) : (s.showMin v).wpFault = s.wpFault := rfl
@[simp] theorem State.showMin_cacheValid (v : BitVec 6) : (s.showMin v).cacheValid = s.cacheValid := rfl
@[simp] theorem State.showMin_display (v : BitVec 6) : (s.showMin v).display = fieldWrite s.params.segMap s.cache .primary .min v.toNat s.display := rfl
@[simp] theorem State.showMin_cache (v : BitVec 6) : (s.showMin v).cache = s.cache := rfl
@[simp] theorem State.showMin_dur (v : BitVec 6) : (s.showMin v).dur = s.dur := rfl
@[simp] theorem State.showMin_wp (v : BitVec 6) : (s.showMin v).wp = s.wp := rfl
@[simp] theorem State.showMin_tsLatch (v : BitVec 6) : (s.showMin v).tsLatch = s.tsLatch := rfl
@[simp] theorem State.showMin_uq (v : BitVec 6) : (s.showMin v).uq = s.uq := rfl
@[simp] theorem State.showMin_out (v : BitVec 6) : (s.showMin v).out = s.out := rfl
@[simp] theorem State.showMin_offers (v : BitVec 6) : (s.showMin v).offers = s.offers := rfl
@[simp] theorem State.showMin_powerUps (v : BitVec 6) : (s.showMin v).powerUps = s.powerUps := rfl

/-! ### State.showHr -/

@[simp] theorem State.showHr_params (v : BitVec 5) : (s.showHr v).params = s.params := rfl
@[simp] theorem State.showHr_eng (v : BitVec 5) : (s.showHr v).eng = s.eng := rfl
@[simp] theorem State.showHr_mode (v : BitVec 5) : (s.showHr v).mode = s.mode := rfl
@[simp] theorem State.showHr_errCode (v : BitVec 5) : (s.showHr v).errCode = s.errCode := rfl
@[simp] theorem State.showHr_sec (v : BitVec 5) : (s.showHr v).sec = s.sec := rfl
@[simp] theorem State.showHr_min (v : BitVec 5) : (s.showHr v).min = s.min := rfl
@[simp] theorem State.showHr_hr (v : BitVec 5) : (s.showHr v).hr = v := rfl
@[simp] theorem State.showHr_days (v : BitVec 5) : (s.showHr v).days = s.days := rfl
@[simp] theorem State.showHr_page (v : BitVec 5) : (s.showHr v).page = s.page := rfl
@[simp] theorem State.showHr_cent (v : BitVec 5) : (s.showHr v).cent = s.cent := rfl
@[simp] theorem State.showHr_midf (v : BitVec 5) : (s.showHr v).midf = s.midf := rfl
@[simp] theorem State.showHr_setting (v : BitVec 5) : (s.showHr v).setting = s.setting := rfl
@[simp] theorem State.showHr_pin (v : BitVec 5) : (s.showHr v).pin = s.pin := rfl
@[simp] theorem State.showHr_edge (v : BitVec 5) : (s.showHr v).edge = s.edge := rfl
@[simp] theorem State.showHr_armed (v : BitVec 5) : (s.showHr v).armed = s.armed := rfl
@[simp] theorem State.showHr_ifg (v : BitVec 5) : (s.showHr v).ifg = s.ifg := rfl
@[simp] theorem State.showHr_ie (v : BitVec 5) : (s.showHr v).ie = s.ie := rfl
@[simp] theorem State.showHr_debActive (v : BitVec 5) : (s.showHr v).debActive = s.debActive := rfl
@[simp] theorem State.showHr_debSet (v : BitVec 5) : (s.showHr v).debSet = s.debSet := rfl
@[simp] theorem State.showHr_tickIfg (v : BitVec 5) : (s.showHr v).tickIfg = s.tickIfg := rfl
@[simp] theorem State.showHr_tickIe (v : BitVec 5) : (s.showHr v).tickIe = s.tickIe := rfl
@[simp] theorem State.showHr_tickLost (v : BitVec 5) : (s.showHr v).tickLost = s.tickLost := rfl
@[simp] theorem State.showHr_cmdReject (v : BitVec 5) : (s.showHr v).cmdReject = s.cmdReject := rfl
@[simp] theorem State.showHr_rejectReason (v : BitVec 5) : (s.showHr v).rejectReason = s.rejectReason := rfl
@[simp] theorem State.showHr_wpFault (v : BitVec 5) : (s.showHr v).wpFault = s.wpFault := rfl
@[simp] theorem State.showHr_cacheValid (v : BitVec 5) : (s.showHr v).cacheValid = s.cacheValid := rfl
@[simp] theorem State.showHr_display (v : BitVec 5) : (s.showHr v).display = fieldWrite s.params.segMap s.cache .primary .hr v.toNat s.display := rfl
@[simp] theorem State.showHr_cache (v : BitVec 5) : (s.showHr v).cache = s.cache := rfl
@[simp] theorem State.showHr_dur (v : BitVec 5) : (s.showHr v).dur = s.dur := rfl
@[simp] theorem State.showHr_wp (v : BitVec 5) : (s.showHr v).wp = s.wp := rfl
@[simp] theorem State.showHr_tsLatch (v : BitVec 5) : (s.showHr v).tsLatch = s.tsLatch := rfl
@[simp] theorem State.showHr_uq (v : BitVec 5) : (s.showHr v).uq = s.uq := rfl
@[simp] theorem State.showHr_out (v : BitVec 5) : (s.showHr v).out = s.out := rfl
@[simp] theorem State.showHr_offers (v : BitVec 5) : (s.showHr v).offers = s.offers := rfl
@[simp] theorem State.showHr_powerUps (v : BitVec 5) : (s.showHr v).powerUps = s.powerUps := rfl

/-! ### State.takeOffer -/

@[simp] theorem State.takeOffer_params : (s.takeOffer).params = s.params := rfl
@[simp] theorem State.takeOffer_eng : (s.takeOffer).eng = s.eng := rfl
@[simp] theorem State.takeOffer_mode : (s.takeOffer).mode = s.mode := rfl
@[simp] theorem State.takeOffer_errCode : (s.takeOffer).errCode = s.errCode := rfl
@[simp] theorem State.takeOffer_sec : (s.takeOffer).sec = s.sec := rfl
@[simp] theorem State.takeOffer_min : (s.takeOffer).min = s.min := rfl
@[simp] theorem State.takeOffer_hr : (s.takeOffer).hr = s.hr := rfl
@[simp] theorem State.takeOffer_days : (s.takeOffer).days = s.days := rfl
@[simp] theorem State.takeOffer_page : (s.takeOffer).page = s.page := rfl
@[simp] theorem State.takeOffer_cent : (s.takeOffer).cent = s.cent := rfl
@[simp] theorem State.takeOffer_midf : (s.takeOffer).midf = s.midf := rfl
@[simp] theorem State.takeOffer_setting : (s.takeOffer).setting = s.setting := rfl
@[simp] theorem State.takeOffer_pin : (s.takeOffer).pin = s.pin := rfl
@[simp] theorem State.takeOffer_edge : (s.takeOffer).edge = s.edge := rfl
@[simp] theorem State.takeOffer_armed : (s.takeOffer).armed = s.armed := rfl
@[simp] theorem State.takeOffer_ifg : (s.takeOffer).ifg = s.ifg := rfl
@[simp] theorem State.takeOffer_ie : (s.takeOffer).ie = s.ie := rfl
@[simp] theorem State.takeOffer_debActive : (s.takeOffer).debActive = s.debActive := rfl
@[simp] theorem State.takeOffer_debSet : (s.takeOffer).debSet = s.debSet := rfl
@[simp] theorem State.takeOffer_tickIfg : (s.takeOffer).tickIfg = s.tickIfg := rfl
@[simp] theorem State.takeOffer_tickIe : (s.takeOffer).tickIe = s.tickIe := rfl
@[simp] theorem State.takeOffer_tickLost : (s.takeOffer).tickLost = s.tickLost := rfl
@[simp] theorem State.takeOffer_cmdReject : (s.takeOffer).cmdReject = s.cmdReject := rfl
@[simp] theorem State.takeOffer_rejectReason : (s.takeOffer).rejectReason = s.rejectReason := rfl
@[simp] theorem State.takeOffer_wpFault : (s.takeOffer).wpFault = s.wpFault := rfl
@[simp] theorem State.takeOffer_cacheValid : (s.takeOffer).cacheValid = s.cacheValid := rfl
@[simp] theorem State.takeOffer_display : (s.takeOffer).display = s.display := rfl
@[simp] theorem State.takeOffer_cache : (s.takeOffer).cache = s.cache := rfl
@[simp] theorem State.takeOffer_dur : (s.takeOffer).dur = s.dur := rfl
@[simp] theorem State.takeOffer_wp : (s.takeOffer).wp = s.wp := rfl
@[simp] theorem State.takeOffer_tsLatch : (s.takeOffer).tsLatch = s.tsLatch := rfl
@[simp] theorem State.takeOffer_uq : (s.takeOffer).uq = s.uq := rfl
@[simp] theorem State.takeOffer_out : (s.takeOffer).out = s.out := rfl
@[simp] theorem State.takeOffer_offers : (s.takeOffer).offers = s.offers.tail := rfl
@[simp] theorem State.takeOffer_powerUps : (s.takeOffer).powerUps = s.powerUps := rfl

/-! ### Per-input bits -/

@[simp] theorem InputBits.get_set_same (b : InputBits) (i : Input) (v : Bool) : (b.set i v).get i = v := by
  cases i <;> rfl

theorem InputBits.get_set_other (b : InputBits) {i j : Input} (v : Bool) (h : j ≠ i) :
    (b.set i v).get j = b.get j := by
  cases i <;> cases j <;> first | rfl | exact absurd rfl h

@[simp] theorem InputBits.get_zero (i : Input) : InputBits.zero.get i = false := by cases i <;> rfl

@[simp] theorem InputBits.get_ones (i : Input) : InputBits.ones.get i = true := by cases i <;> rfl

@[simp] theorem InputBits.get_both (a b : InputBits) (i : Input) : (a.both b).get i = (a.get i && b.get i) := by
  cases i <;> rfl

theorem InputBits.ext_get {a b : InputBits} (h : ∀ i, a.get i = b.get i) : a = b := by
  cases a; cases b
  simpa [InputBits.get] using And.intro (h .adv) (And.intro (h .inc) (h .trig))

/-! ### The handlers' shared updates -/

@[simp] theorem writeCentury_eq (c : BitVec 16) (m : Bool) :
    writeCentury s c m = { s with cent := c, midf := m, uq := s.uq ++ s.dur.recordUops .crec (centuryWords c m) } := rfl

@[simp] theorem enterUnlocking_eq :
    enterUnlocking s = { s with eng := .unlocking, uq := s.uq ++ [.emit eventUnlock] } := rfl

@[simp] theorem pageRotate_eq :
    pageRotate s = { s with page := s.nextPage, display := showPage s.nextPage s.display } := rfl

theorem enterTerminal_eq :
    enterTerminal s = { s with
      eng := .terminal, sec := 0, min := 0, hr := 0, days := 0, page := .time
      display := paintTerminal s.params.segMap s.display } := rfl

theorem enterCounting_eq (m : CountMode) :
    enterCounting s m = { s with
      mode := m, page := .time, eng := .counting
      display := countingDisplay s.cache s.sec.toNat s.min.toNat s.hr.toNat s.params.segMap s.display } := rfl

theorem enterSetting_eq :
    enterSetting s = { s with eng := .setting, display := paintSettingPage s.params.segMap s.setting s.display } := rfl

theorem enterError_eq (code : BitVec 4) :
    enterError s code = { s with
      eng := .error, errCode := code, display := paintError s.params.segMap code.toNat s.display } := rfl

theorem actAdvance_eq :
    actAdvance s = { s with
      setting := s.setting.advance
      display := paintSettingPage s.params.segMap s.setting.advance s.display } := rfl

theorem actIncrement_eq :
    actIncrement s = { s with
      setting := s.setting.increment
      display := paintSettingPage s.params.segMap s.setting.increment s.display } := rfl

end Sys2Proof.Machine
end

