-- ==== Sys2Proof/Laws/Durable.lean ====
section
/-! SUPPORT. µops and durable records: what one µop can do, and the shape of a record's write. -/

namespace Sys2Proof.Machine

/-! ### One µop (42_durable R120 to R124) -/

/-- What a performed µop does, with what it wrote. -/
theorem performUop_cases {u : Uop} {s t : State} (h : performUop u s = .next t) :
    (∃ a v, u = .dww a v ∧ a.toNat < 32 ∧ s.wp = false ∧ t = { s with dur := s.dur.write a.toNat v })
      ∨ (∃ a v, u = .dww a v ∧ a.toNat < 32 ∧ s.wp = true ∧ t = { s with wpFault := true })
      ∨ (u = .wpu ∧ t = { s with wp := false })
      ∨ (u = .wpl ∧ t = { s with wp := true })
      ∨ (∃ e, u = .emit e ∧ eventCodeOk e = true ∧ t = { s with out := s.out ++ [e] }) := by
  cases u with
  | dww a v =>
    simp only [performUop, performDww, State.durableWrite] at h
    split at h
    · rename_i ha
      have ha : a.toNat < 32 := by simpa [durAddressOk] using ha
      cases hw : s.wp <;> rw [hw] at h <;> cases h
      · exact .inl ⟨a, v, rfl, ha, rfl, rfl⟩
      · exact .inr (.inl ⟨a, v, rfl, ha, rfl, rfl⟩)
    · cases h
  | wpu => cases h; exact .inr (.inr (.inl ⟨rfl, rfl⟩))
  | wpl => cases h; exact .inr (.inr (.inr (.inl ⟨rfl, rfl⟩)))
  | emit e =>
    simp only [performUop, performEmit] at h
    split at h
    · rename_i he
      cases h
      exact .inr (.inr (.inr (.inr ⟨e, rfl, he, rfl⟩)))
    · cases h

/-- A UOP_STEP that completes performs the head of UQ on the state with the rest of UQ. -/
theorem execUopStep_next {s t : State} (h : execUopStep s = .next t) :
    ∃ u us, s.uq = u :: us ∧ performUop u { s with uq := us } = .next t := by
  unfold execUopStep at h
  cases hq : s.uq with
  | nil => rw [hq] at h; cases h
  | cons u us => rw [hq] at h; exact ⟨u, us, rfl, h⟩

/-- A µop writes no word but its own. -/
theorem performUop_read {u : Uop} {s t : State} (h : performUop u s = .next t) {b : Nat}
    (hb : ∀ a v, u = .dww a v → b ≠ a.toNat) : t.dur.read b = s.dur.read b := by
  rcases performUop_cases h with ⟨a, v, hu, _, _, rfl⟩ | ⟨_, _, _, _, _, rfl⟩ | ⟨_, rfl⟩ | ⟨_, rfl⟩ | ⟨_, _, _, rfl⟩
  · exact Memory.read_write_other v (hb a v hu)
  · rfl
  · rfl
  · rfl
  · rfl

/-- Every µop keeps the durable memory canonical. -/
theorem performUop_wf {u : Uop} {s t : State} (h : performUop u s = .next t) (hw : s.dur.wf = true) :
    t.dur.wf = true := by
  rcases performUop_cases h with ⟨a, v, _, ha, _, rfl⟩ | ⟨_, _, _, _, _, rfl⟩ | ⟨_, rfl⟩ | ⟨_, rfl⟩ | ⟨_, _, _, rfl⟩
  · exact Memory.wf_write v ha hw
  · exact hw
  · exact hw
  · exact hw
  · exact hw

/-- A performed µop changes only DUR, WP, WP_FAULT or OUT. -/
theorem performUop_frame {u : Uop} {s t : State} (h : performUop u s = .next t) :
    t = { s with dur := t.dur, wp := t.wp, wpFault := t.wpFault, out := t.out } := by
  rcases performUop_cases h with ⟨_, _, _, _, _, rfl⟩ | ⟨_, _, _, _, _, rfl⟩ | ⟨_, rfl⟩ | ⟨_, rfl⟩ | ⟨_, _, _, rfl⟩ <;>
    rfl

/-! ### Records (42_durable R112, R115) -/

/-- The words of the records end before the reserved words, and different records have different words. -/
theorem Record.bound (r : Record) : r.base + 2 * r.size < 0x19 := by cases r <;> decide

theorem Record.disjoint {r r' : Record} (h : r ≠ r') :
    r.base + 2 * r.size < r'.base ∨ r'.base + 2 * r'.size < r.base := by
  cases r <;> cases r' <;> first | exact absurd rfl h | decide

@[simp] theorem Memory.primaryOf_length (m : Memory) (r : Record) : (m.primaryOf r).length = r.size := by
  simp [Memory.primaryOf]

@[simp] theorem Memory.backupOf_length (m : Memory) (r : Record) : (m.backupOf r).length = r.size := by
  simp [Memory.backupOf]

@[simp] theorem Memory.readDurable_length (m : Memory) (r : Record) : (m.readDurable r).length = r.size := by
  unfold Memory.readDurable
  split <;> simp

/-- Memories that agree on the words of a record read it alike. -/
theorem Memory.readDurable_congr {m m' : Memory} {r : Record}
    (h : ∀ a, r.base ≤ a → a ≤ r.base + 2 * r.size → m.read a = m'.read a) : m.readDurable r = m'.readDurable r := by
  have hb : m.read r.base = m'.read r.base := h _ (Nat.le_refl _) (by omega)
  have hp : m.primaryOf r = m'.primaryOf r := by
    apply List.map_congr_left
    intro k hk
    have hk := List.mem_range.mp hk
    exact h _ (by simp only [Record.primaryAt]; omega) (by simp only [Record.primaryAt]; omega)
  have hk : m.backupOf r = m'.backupOf r := by
    apply List.map_congr_left
    intro k hk
    have hk := List.mem_range.mp hk
    exact h _ (by simp only [Record.backupAt]; omega) (by simp only [Record.backupAt]; omega)
  rw [Memory.readDurable, Memory.readDurable, Memory.recordActive, Memory.recordActive, hb, hp, hk]

/-- A word write outside a record leaves its value. -/
theorem Memory.readDurable_write_other {m : Memory} {r : Record} {a : Nat} (v : Word)
    (h : a < r.base ∨ r.base + 2 * r.size < a) : (m.write a v).readDurable r = m.readDurable r :=
  Memory.readDurable_congr fun _ h1 h2 => Memory.read_write_other v (by omega)

/-! ### The queue (42_durable R117, R119) -/

theorem bracketed_append (wp : Bool) (us vs : List Uop) (h : bracketed wp us = true) :
    bracketed wp (us ++ vs) = bracketed true vs := by
  induction us generalizing wp with
  | nil => simp only [bracketed] at h; simp [h]
  | cons u us ih =>
    cases u <;> simp only [bracketed, List.cons_append, Bool.and_eq_true] at h ⊢
    · rw [ih _ h.2, h.1, Bool.true_and]
    · exact ih _ h
    · exact ih _ h
    · exact ih _ h

/-- A run of word writes while unprotected. -/
theorem bracketed_dwws (us vs : List Uop) (h : ∀ u ∈ us, ∃ a v, u = .dww a v) :
    bracketed false (us ++ vs) = bracketed false vs := by
  induction us with
  | nil => rfl
  | cons u us ih =>
    obtain ⟨a, v, rfl⟩ := h u (List.mem_cons_self)
    simp only [List.cons_append, bracketed, Bool.not_false, Bool.true_and]
    exact ih fun u hu => h u (List.mem_cons_of_mem _ hu)

/-- The word writes of a record's write lie in the record. -/
theorem mem_writePrimary {r : Record} {vs : List Word} (hv : vs.length = r.size) {u : Uop}
    (h : u ∈ r.writePrimary vs) : ∃ a v, u = .dww a v ∧ r.base < a.toNat ∧ a.toNat ≤ r.base + r.size := by
  unfold Record.writePrimary at h
  obtain ⟨⟨v, k⟩, hk, rfl⟩ := List.mem_map.mp h
  have := List.snd_lt_of_mem_zipIdx hk
  simp only at this
  have hb := r.bound
  refine ⟨_, _, rfl, ?_, ?_⟩ <;> simp only [Record.primaryAt, BitVec.toNat_ofNat] <;> omega

theorem mem_writeBackup {r : Record} {vs : List Word} (hv : vs.length = r.size) {u : Uop}
    (h : u ∈ r.writeBackup vs) :
    ∃ a v, u = .dww a v ∧ r.base + r.size < a.toNat ∧ a.toNat ≤ r.base + 2 * r.size := by
  unfold Record.writeBackup at h
  obtain ⟨⟨v, k⟩, hk, rfl⟩ := List.mem_map.mp h
  have := List.snd_lt_of_mem_zipIdx hk
  simp only at this
  have hb := r.bound
  refine ⟨_, _, rfl, ?_, ?_⟩ <;> simp only [Record.backupAt, BitVec.toNat_ofNat] <;> omega

/-- Between its WPU and its WPL a record's write holds only word writes of the record. -/
theorem mem_recordUops {m : Memory} {r : Record} {n : List Word} (hn : n.length = r.size) {u : Uop}
    (h : u ∈ m.recordUops r n) : u = .wpu ∨ u = .wpl ∨ (∃ a v, u = .dww a v) ∧ uopWrites r u = true := by
  have hb := r.bound
  have flag : ∀ v, u = durableWord r.base v → (∃ a v, u = .dww a v) ∧ uopWrites r u = true := by
    rintro v rfl
    refine ⟨⟨_, _, rfl⟩, ?_⟩
    simp only [durableWord, uopWrites, Bool.and_eq_true, decide_eq_true_eq, BitVec.toNat_ofNat]
    omega
  have prim : ∀ vs : List Word, vs.length = r.size → u ∈ r.writePrimary vs →
      (∃ a v, u = .dww a v) ∧ uopWrites r u = true := by
    intro vs hv hu
    obtain ⟨a, v, rfl, h1, h2⟩ := mem_writePrimary hv hu
    refine ⟨⟨_, _, rfl⟩, ?_⟩
    simp only [uopWrites, Bool.and_eq_true, decide_eq_true_eq]
    omega
  have back : ∀ vs : List Word, vs.length = r.size → u ∈ r.writeBackup vs →
      (∃ a v, u = .dww a v) ∧ uopWrites r u = true := by
    intro vs hv hu
    obtain ⟨a, v, rfl, h1, h2⟩ := mem_writeBackup hv hu
    refine ⟨⟨_, _, rfl⟩, ?_⟩
    simp only [uopWrites, Bool.and_eq_true, decide_eq_true_eq]
    omega
  simp only [Memory.recordUops, List.mem_append, List.mem_singleton] at h
  rcases h with (((((h | h) | h) | h) | h) | h) | h
  · exact .inl h
  · unfold Memory.repairUops at h
    split at h
    · rcases List.mem_append.mp h with h | h
      · exact .inr (.inr (prim _ (Memory.backupOf_length m r) h))
      · exact .inr (.inr (flag _ (List.mem_singleton.mp h)))
    · cases h
  · exact .inr (.inr (back _ (Memory.readDurable_length m r) h))
  · exact .inr (.inr (flag _ h))
  · exact .inr (.inr (prim _ hn h))
  · exact .inr (.inr (flag _ h))
  · exact .inr (.inl h)

/-- A record's write is WPU, word writes, WPL. -/
theorem recordUops_shape {m : Memory} {r : Record} {n : List Word} (hn : n.length = r.size) :
    ∃ ws, m.recordUops r n = .wpu :: (ws ++ [.wpl]) ∧ ∀ u ∈ ws, ∃ a v, u = .dww a v := by
  refine ⟨m.repairUops r ++ r.writeBackup (m.readDurable r) ++ [durableWord r.base 1]
    ++ r.writePrimary n ++ [durableWord r.base 0], by simp [Memory.recordUops], ?_⟩
  intro u hu
  simp only [List.mem_append, List.mem_singleton] at hu
  rcases hu with (((hu | hu) | hu) | hu) | hu
  · unfold Memory.repairUops at hu
    split at hu
    · rcases List.mem_append.mp hu with hu | hu
      · obtain ⟨a, v, e, _⟩ := mem_writePrimary (Memory.backupOf_length m r) hu
        exact ⟨a, v, e⟩
      · exact ⟨_, _, List.mem_singleton.mp hu⟩
    · cases hu
  · obtain ⟨a, v, e, _⟩ := mem_writeBackup (Memory.readDurable_length m r) hu
    exact ⟨a, v, e⟩
  · exact ⟨_, _, hu⟩
  · obtain ⟨a, v, e, _⟩ := mem_writePrimary hn hu
    exact ⟨a, v, e⟩
  · exact ⟨_, _, hu⟩

/-- A record's write is bracketed: unprotected inside, protected at its end (20_memory R54). -/
theorem bracketed_recordUops {m : Memory} {r : Record} {n : List Word} (hn : n.length = r.size) (wp : Bool)
    (vs : List Uop) : bracketed wp (m.recordUops r n ++ vs) = bracketed true vs := by
  obtain ⟨ws, e, h⟩ := recordUops_shape (m := m) hn
  rw [e]
  simp only [List.cons_append, List.append_assoc, bracketed]
  rw [bracketed_dwws _ _ h]
  rfl

/-- Every µop of a record's write is legal. -/
theorem uopLegal_recordUops {m : Memory} {r : Record} {n : List Word} (hn : n.length = r.size) :
    ∀ u ∈ m.recordUops r n, uopLegal u = true := by
  intro u hu
  have hb := r.bound
  rcases mem_recordUops hn hu with rfl | rfl | ⟨⟨a, v, rfl⟩, hw⟩
  · rfl
  · rfl
  · simp only [uopWrites, Bool.and_eq_true, decide_eq_true_eq] at hw
    simp only [uopLegal, decide_eq_true_eq]
    omega

/-! ### The repair on its own (44_host R137) -/

/-- The word writes of a record's repair. -/
theorem mem_repairUops {m : Memory} {r : Record} {u : Uop} (h : u ∈ m.repairUops r) :
    (∃ a v, u = .dww a v) ∧ uopWrites r u = true := by
  have hn : (List.replicate r.size (0 : Word)).length = r.size := List.length_replicate
  have hw : u = .wpu ∨ u = .wpl ∨ (∃ a v, u = .dww a v) ∧ uopWrites r u = true :=
    mem_recordUops hn (by simp only [Memory.recordUops, List.mem_append]; tauto)
  have dww : ∃ a v, u = .dww a v := by
    unfold Memory.repairUops at h
    split at h
    · rcases List.mem_append.mp h with h | h
      · obtain ⟨a, v, e, _⟩ := mem_writePrimary (Memory.backupOf_length m r) h
        exact ⟨a, v, e⟩
      · exact ⟨_, _, List.mem_singleton.mp h⟩
    · cases h
  obtain ⟨a, v, rfl⟩ := dww
  rcases hw with h | h | h
  · cases h
  · cases h
  · exact h

/-- The repair is empty, or WPU, word writes of the record, WPL. -/
theorem repairList_cases (m : Memory) (r : Record) :
    (m.read r.base = 0 ∧ m.repairList r = [])
      ∨ (m.read r.base ≠ 0 ∧ m.repairList r = .wpu :: (m.repairUops r ++ [.wpl])) := by
  unfold Memory.repairList
  by_cases h : m.read r.base = 0
  · exact .inl ⟨h, by simp [Memory.recordActive, h]⟩
  · have h' : ¬m.read r.base = 0#16 := h
    exact .inr ⟨h, by simp [Memory.recordActive, h']⟩

/-- A repair is bracketed. -/
theorem bracketed_repairList (m : Memory) (r : Record) (vs : List Uop) :
    bracketed true (m.repairList r ++ vs) = bracketed true vs := by
  rcases repairList_cases m r with ⟨-, e⟩ | ⟨-, e⟩ <;> rw [e]
  · rfl
  · simp only [List.cons_append, List.append_assoc, bracketed]
    rw [bracketed_dwws _ _ fun u hu => (mem_repairUops hu).1]
    rfl

/-- Every µop of a repair is legal. -/
theorem uopLegal_repairList (m : Memory) (r : Record) : ∀ u ∈ m.repairList r, uopLegal u = true := by
  intro u hu
  have hb := r.bound
  rcases repairList_cases m r with ⟨-, e⟩ | ⟨-, e⟩ <;> rw [e] at hu
  · cases hu
  · simp only [List.mem_cons, List.mem_append, List.not_mem_nil, or_false] at hu
    rcases hu with rfl | hu | rfl
    · rfl
    · obtain ⟨⟨a, v, rfl⟩, hw⟩ := mem_repairUops hu
      simp only [uopWrites, Bool.and_eq_true, decide_eq_true_eq] at hw
      simp only [uopLegal, decide_eq_true_eq]
      omega
    · rfl

end Sys2Proof.Machine
end

