-- ==== Sys2Proof/Laws/Encoding.lean ====
section
/-! SUPPORT. The fields of a label word: what the encoder puts into them, and what decoding a word says of them
(30_encoding R60, R67). -/

namespace Sys2Proof

@[simp] theorem Label.cls_encodeFields (c o : BitVec 4) (x : BitVec 48) : (encodeFields c o x).cls = c := by
  apply BitVec.eq_of_getLsbD_eq
  intro i hi
  simp only [Label.cls, encodeFields, BitVec.getLsbD_extractLsb', BitVec.getLsbD_append, decide_eq_true hi,
    Bool.true_and, if_neg (show ¬ (60 + i < 48) by omega), if_neg (show ¬ (60 + i - 48 < 8) by omega),
    if_neg (show ¬ (60 + i - 48 - 8 < 4) by omega), show 60 + i - 48 - 8 - 4 = i by omega]

@[simp] theorem Label.op_encodeFields (c o : BitVec 4) (x : BitVec 48) : (encodeFields c o x).op = o := by
  apply BitVec.eq_of_getLsbD_eq
  intro i hi
  simp only [Label.op, encodeFields, BitVec.getLsbD_extractLsb', BitVec.getLsbD_append, decide_eq_true hi,
    Bool.true_and, if_neg (show ¬ (56 + i < 48) by omega), if_neg (show ¬ (56 + i - 48 < 8) by omega),
    show 56 + i - 48 - 8 = i by omega, if_pos hi]

@[simp] theorem Label.rsv_encodeFields (c o : BitVec 4) (x : BitVec 48) : (encodeFields c o x).rsv = 0#8 := by
  apply BitVec.eq_of_getLsbD_eq
  intro i hi
  simp only [Label.rsv, encodeFields, BitVec.getLsbD_extractLsb', BitVec.getLsbD_append, decide_eq_true hi,
    Bool.true_and, if_neg (show ¬ (48 + i < 48) by omega),
    show 48 + i - 48 = i by omega, if_pos hi]

@[simp] theorem Label.operand_encodeFields (c o : BitVec 4) (x : BitVec 48) : (encodeFields c o x).operand = x := by
  apply BitVec.eq_of_getLsbD_eq
  intro i hi
  simp only [Label.operand, encodeFields, BitVec.getLsbD_extractLsb', BitVec.getLsbD_append, decide_eq_true hi,
    Bool.true_and, Nat.zero_add, if_pos hi]

/-- A word with RSV 0 is put together again from its fields. -/
theorem encodeFields_of (w : Label) (h : w.rsv = 0#8) : encodeFields w.cls w.op w.operand = w := by
  apply BitVec.eq_of_getLsbD_eq
  intro i hi
  simp only [encodeFields, BitVec.getLsbD_append, Label.cls, Label.op, Label.operand, BitVec.getLsbD_extractLsb']
  by_cases h1 : i < 48
  · simp [h1]
  · by_cases h2 : i - 48 < 8
    · have := congrArg (fun v => v.getLsbD (i-48)) h
      simp [Label.rsv, h2, show 48 + (i-48) = i by omega] at this
      simp [h1, h2, this]
    · by_cases h3 : i - 48 - 8 < 4
      · simp [h1, h2, h3, show 56 + (i-48-8) = i by omega]
      · simp [h1, h2, h3, show i-48-8-4 < 4 by omega, show 60 + (i-48-8-4) = i by omega]


/-- A word decodes to a command exactly when its CLASS is 0. -/
theorem decode_command_iff {w : Label} {i : Instr} (h : decode w = .ok i) :
    i.labelClass = .command ↔ w.cls = 0#4 := by
  unfold decode at h
  split at h
  · cases h
  split at h
  · rename_i hc
    unfold decodeCommandOp decodeBare at h
    repeat' split at h
    all_goals cases h <;> simp [Instr.labelClass, hc]
  split at h
  · rename_i hc
    unfold decodeEventOp decodePinChange decodeBare at h
    repeat' split at h
    all_goals first | cases h; done | (cases h; simp [Instr.labelClass, hc])
  split at h
  · rename_i hc
    unfold decodeInternalOp decodeBare at h
    repeat' split at h
    all_goals cases h <;> simp [Instr.labelClass, hc]
  split at h
  · rename_i hc
    unfold decodeUopOp decodeDww decodeEmit decodeBare at h
    repeat' split at h
    all_goals cases h <;> simp [Instr.labelClass, hc]
  cases h

/-- A word of RSV 0 and CLASS 0 decodes by its OP alone. -/
theorem decode_command {w : Label} (hr : w.rsv = 0#8) (hc : w.cls = 0#4) : decode w = decodeCommandOp w.op w.operand := by
  simp [decode, hr, hc]

theorem decode_event {w : Label} (hr : w.rsv = 0#8) (hc : w.cls = 1#4) : decode w = decodeEventOp w.op w.operand := by
  simp [decode, hr, hc]

theorem decode_internal {w : Label} (hr : w.rsv = 0#8) (hc : w.cls = 2#4) :
    decode w = decodeInternalOp w.op w.operand := by
  simp [decode, hr, hc]

theorem decode_uop {w : Label} (hr : w.rsv = 0#8) (hc : w.cls = 3#4) : decode w = decodeUopOp w.op w.operand := by
  simp [decode, hr, hc]

end Sys2Proof
end

