-- ==== Sys2Proof/Laws/Engine.lean ====
section
/-! SUPPORT. The time engine: what the tick procedures do to the time registers, by cases. -/

namespace Sys2Proof.Machine

/-! ### Small facts of the register widths -/

theorem toNat_pos {n : Nat} (x : BitVec n) : 0 < x ↔ 0 < x.toNat := by simp [BitVec.lt_def]

theorem toNat_dec {n : Nat} {x : BitVec n} (h : 0 < x) : (x - 1).toNat = x.toNat - 1 := by
  have h' := (toNat_pos x).mp h
  have := x.isLt
  have hn : 1 < 2 ^ n := by omega
  have h1 : (1 : BitVec n).toNat = 1 := (BitVec.toNat_ofNat 1 n).trans (Nat.mod_eq_of_lt hn)
  rw [BitVec.toNat_sub, h1]
  rw [show 2 ^ n - 1 + x.toNat = 2 ^ n + (x.toNat - 1) by omega, Nat.add_mod_left, Nat.mod_eq_of_lt (by omega)]

theorem beq_zero_iff {n : Nat} (x : BitVec n) : (x == 0) = true ↔ x.toNat = 0 := by
  rw [beq_iff_eq]
  constructor
  · intro h; simp [h]
  · intro h; apply BitVec.eq_of_toNat_eq; simp [h]

/-- The zero test of the countdown is the test of the whole time. -/
theorem State.timeZero_iff (s : State) : s.timeZero = true ↔ s.totalSeconds = 0 := by
  simp only [State.timeZero, Bool.and_eq_true, beq_zero_iff, State.totalSeconds]
  omega

/-! ### TICK_DISPATCH by engine state -/

theorem dispatchTick_down {s : State} (he : s.eng = .counting) (hm : s.mode = .down) :
    dispatchTick s = tickDown { s with tickIfg := false } := by
  simp only [dispatchTick, he, hm]

theorem dispatchTick_up {s : State} (he : s.eng = .counting) (hm : s.mode = .up) :
    dispatchTick s = tickUp { s with tickIfg := false } := by
  simp only [dispatchTick, he, hm]

theorem dispatchTick_other {s : State} (he : s.eng ≠ .counting) : dispatchTick s = { s with tickIfg := false } := by
  unfold dispatchTick
  cases h : s.eng <;> first | exact absurd h he | rfl

/-! ### The countdown's decrement -/

/-- The decrement writes the time registers and the primary buffer only. -/
theorem borrowSecond_frame (s : State) :
    borrowSecond s = { s with
      sec := (borrowSecond s).sec, min := (borrowSecond s).min, hr := (borrowSecond s).hr
      days := (borrowSecond s).days
      display := { s.display with primary := (borrowSecond s).display.primary } } := by
  unfold borrowSecond borrowMinute borrowHour
  split
  · rfl
  · split
    · rfl
    · split <;> rfl

/-- With time left, the decrement takes one second off the whole time and leaves every field in range. -/
theorem borrowSecond_time {s : State} (hl : s.TimeLegal) (hz : 0 < s.totalSeconds) :
    (borrowSecond s).totalSeconds + 1 = s.totalSeconds ∧ (borrowSecond s).TimeLegal := by
  obtain ⟨l1, l2, l3⟩ := hl
  simp only [State.totalSeconds] at hz
  unfold borrowSecond
  split <;> rename_i c1
  · have h1 := toNat_dec c1
    have h2 := (toNat_pos _).mp c1
    simp only [State.totalSeconds, State.TimeLegal, State.showSec, State.showField]
    omega
  · have h1 : s.sec.toNat = 0 := by rw [toNat_pos] at c1; omega
    unfold borrowMinute
    split <;> rename_i c2
    · have h3 := toNat_dec c2
      have h4 := (toNat_pos _).mp c2
      simp only [State.showSec, State.showField] at h3 h4
      simp only [State.totalSeconds, State.TimeLegal, State.showSec, State.showMin, State.showField, BitVec.reduceToNat]
      omega
    · have h2 : s.min.toNat = 0 := by rw [toNat_pos] at c2; simp only [State.showSec, State.showField] at c2; omega
      unfold borrowHour
      split <;> rename_i c3
      · have h3 := toNat_dec c3
        have h4 := (toNat_pos _).mp c3
        simp only [State.showSec, State.showMin, State.showField] at h3 h4
        simp only [State.totalSeconds, State.TimeLegal, State.showSec, State.showMin, State.showHr, State.showField,
          BitVec.reduceToNat]
        omega
      · have h3 : s.hr.toNat = 0 := by
          rw [toNat_pos] at c3; simp only [State.showSec, State.showMin, State.showField] at c3; omega
        have h4 : 0 < s.days := by rw [toNat_pos]; omega
        have h5 := toNat_dec h4
        simp only [State.totalSeconds, State.TimeLegal, State.showSec, State.showMin, State.showHr, State.showField,
          BitVec.reduceToNat]
        omega

/-- The decrement writes no display word but the three field words. -/
theorem borrowSecond_words (s : State) {w : Nat} (hw : ∀ f : Field, w ≠ fieldWord s.params.segMap f) :
    (borrowSecond s).display.read .primary w = s.display.read .primary w := by
  unfold borrowSecond
  split
  · simp [fieldWrite_read_other, hw]
  · unfold borrowMinute
    split
    · simp [fieldWrite_read_other, hw]
    · unfold borrowHour
      split
      · simp [fieldWrite_read_other, hw]
      · simp [fieldWrite_read_other, hw]

/-- While seconds are left, the decrement stores one word. -/
theorem borrowSecond_short {s : State} (h : 0 < s.sec.toNat) :
    borrowSecond s = s.showSec (s.sec - 1) := by
  unfold borrowSecond
  rw [if_pos ((toNat_pos _).mpr h)]

/-! ### The count-up carry -/

/-- The carry chain of `tickUp` ends in one of two ways: a page rotation with one second more, or the day rollover. -/
theorem tickUp_cases {s : State} (hl : s.TimeLegal) :
    (¬(s.sec = 59 ∧ s.min = 59 ∧ s.hr = 23) ∧ ∃ r : State,
        tickUp s = pageRotate r ∧ r.totalSeconds = s.totalSeconds + 1 ∧ r.TimeLegal
          ∧ r = { s with sec := r.sec, min := r.min, hr := r.hr
                         display := { s.display with primary := r.display.primary } }
          ∧ (s.sec.toNat ≠ 59 → r = s.showSec (s.sec + 1))
          ∧ ∀ w : Nat, (∀ f : Field, w ≠ fieldWord s.params.segMap f) →
              r.display.read .primary w = s.display.read .primary w)
      ∨ ((s.sec = 59 ∧ s.min = 59 ∧ s.hr = 23) ∧ tickUp s = rollDay (((s.showSec 0).showMin 0).showHr 0)) := by
  obtain ⟨l1, l2, l3⟩ := hl
  have w6 : ∀ x : BitVec 6, x.toNat ≤ 59 → (x + 1).toNat = x.toNat + 1 := fun x h => by
    rw [BitVec.toNat_add]; simp; omega
  have w5 : ∀ x : BitVec 5, x.toNat ≤ 23 → (x + 1).toNat = x.toNat + 1 := fun x h => by
    rw [BitVec.toNat_add]; simp; omega
  have e6 : ∀ x : BitVec 6, x = 59 ↔ x.toNat = 59 := fun x => ⟨fun h => by rw [h]; rfl, fun h => BitVec.eq_of_toNat_eq h⟩
  have e5 : ∀ x : BitVec 5, x = 23 ↔ x.toNat = 23 := fun x => ⟨fun h => by rw [h]; rfl, fun h => BitVec.eq_of_toNat_eq h⟩
  have d6 : ∀ x : BitVec 6, x < 60 ↔ x.toNat < 60 := fun x => by rw [BitVec.lt_def]; rfl
  have d5 : ∀ x : BitVec 5, x < 24 ↔ x.toNat < 24 := fun x => by rw [BitVec.lt_def]; rfl
  have ws := w6 _ l1
  have wm := w6 _ l2
  have wh := w5 _ l3
  rw [e6, e6, e5]
  unfold tickUp
  split <;> rename_i c1 <;> rw [d6, ws] at c1
  · refine .inl ⟨by omega, _, rfl, ?_, ?_, rfl, fun _ => rfl, fun w hw => by
        simp [fieldWrite_read_other, hw]⟩
    · simp only [State.totalSeconds, State.showSec, State.showField]; omega
    · simp only [State.TimeLegal, State.showSec, State.showField]; omega
  · unfold carryMinute
    split <;> rename_i c2 <;> rw [d6] at c2 <;> simp only [State.showSec, State.showField] at c2
    · refine .inl ⟨by omega, _, rfl, ?_, ?_, rfl, fun h => absurd h (by omega), fun w hw => by
        simp [fieldWrite_read_other, hw]⟩
      · simp only [State.totalSeconds, State.showSec, State.showMin, State.showField, BitVec.reduceToNat]; omega
      · simp only [State.TimeLegal, State.showSec, State.showMin, State.showField, BitVec.reduceToNat]; omega
    · unfold carryHour
      split <;> rename_i c3 <;> rw [d5] at c3 <;> simp only [State.showSec, State.showMin, State.showField] at c3
      · refine .inl ⟨by omega, _, rfl, ?_, ?_, rfl, fun h => absurd h (by omega), fun w hw => by
          simp [fieldWrite_read_other, hw]⟩
        · simp only [State.totalSeconds, State.showSec, State.showMin, State.showHr, State.showField,
            BitVec.reduceToNat]; omega
        · simp only [State.TimeLegal, State.showSec, State.showMin, State.showHr, State.showField,
            BitVec.reduceToNat]; omega
      · exact .inr ⟨by omega, rfl⟩

/-! ### Century bookkeeping -/

/-- What `centBook` can do: the next century, the midpoint, or nothing. -/
theorem centBook_cases (s : State) :
    (36525 ≤ s.daysInCentury ∧ centBook s = writeCentury s (s.cent + 1) false)
      ∨ (s.daysInCentury < 36525 ∧ 18263 ≤ s.daysInCentury ∧ s.midf = false ∧ centBook s = writeCentury s s.cent true)
      ∨ (s.daysInCentury < 36525 ∧ (s.daysInCentury < 18263 ∨ s.midf = true) ∧ centBook s = s) := by
  unfold centBook
  split <;> rename_i h1
  · exact .inl ⟨h1, rfl⟩
  · split <;> rename_i h2
    · exact .inr (.inl ⟨by simpa using h1, h2.1, h2.2, rfl⟩)
    · refine .inr (.inr ⟨by simpa using h1, ?_, rfl⟩)
      cases hm : s.midf
      · exact .inl (by_contra fun h => h2 ⟨by simpa using h, hm⟩)
      · exact .inr rfl

/-- The correction of the boot restore: the year wrapped, the midpoint passed, or the pair as read with the repair of
a cut write. -/
theorem correctCentury_cases (s : State) (c : BitVec 16) (m : Bool) (yy : Nat) :
    (m = true ∧ yy < 50 ∧ correctCentury s c m yy = writeCentury s (c + 1) false)
      ∨ (m = false ∧ 50 ≤ yy ∧ correctCentury s c m yy = writeCentury s c true)
      ∨ (¬(m = true ∧ yy < 50) ∧ ¬(m = false ∧ 50 ≤ yy) ∧ correctCentury s c m yy = State.repairRecord { s with cent := c, midf := m } .crec) := by
  unfold correctCentury
  split <;> rename_i h1
  · exact .inl ⟨h1.1, h1.2, rfl⟩
  · split <;> rename_i h2
    · exact .inr (.inl ⟨h2.1, h2.2, rfl⟩)
    · exact .inr (.inr ⟨h1, h2, rfl⟩)

/-- Long-now or not, at the end of a boot restore. -/
theorem resumeCount_cases (s : State) :
    (s.days.toNat < 1000000 ∧ resumeCount s = (enterCounting s .up).paintDays)
      ∨ (1000000 ≤ s.days.toNat ∧ resumeCount s = enterTerminal s) := by
  unfold resumeCount
  split <;> rename_i h
  · exact .inr ⟨h, rfl⟩
  · exact .inl ⟨by simpa using h, rfl⟩

/-- Long-now or not, at the end of a day rollover. -/
theorem finishDay_cases (s : State) :
    (s.days.toNat < 1000000 ∧ finishDay s = pageRotate s.paintDays)
      ∨ (1000000 ≤ s.days.toNat ∧ finishDay s = enterTerminal s) := by
  unfold finishDay
  split <;> rename_i h
  · exact .inr ⟨h, rfl⟩
  · exact .inl ⟨by simpa using h, rfl⟩

/-- The time registers of `t` seconds make `t` seconds again and are in range, for every committed value. -/
theorem setDuration_time (s : State) {t : Nat} (h : t < 86400 * 2 ^ 32) :
    (s.setDuration t).totalSeconds = t ∧ (s.setDuration t).TimeLegal := by
  simp only [State.totalSeconds, State.setDuration, State.TimeLegal, Config.secPerDay, BitVec.toNat_ofNat]
  omega

/-! ### The RTC calendar (41_engine R109, R110) -/

/-- What a valid payload gives. -/
theorem validTs_range {p : Stamp} (h : validTs p = true) :
    (stampFields p).yy ≤ 99 ∧ 1 ≤ (stampFields p).mm ∧ (stampFields p).mm ≤ 12 ∧ 1 ≤ (stampFields p).dd
      ∧ (stampFields p).dd ≤ daysInMonth (stampFields p).yy (stampFields p).mm ∧ (stampFields p).hh ≤ 23
      ∧ (stampFields p).mi ≤ 59 ∧ (stampFields p).ss ≤ 59 := by
  simp only [validTs, timestampInRange, Bool.and_eq_true, decide_eq_true_eq] at h
  obtain ⟨-, ⟨⟨⟨⟨⟨⟨a, b⟩, c⟩, d⟩, e⟩, f⟩, g⟩, i⟩ := h
  exact ⟨a, b, c, d, e, f, g, i⟩

theorem leapYear_iff (yy : Nat) : leapYear yy = true ↔ yy % 4 = 0 := by simp [leapYear]

end Sys2Proof.Machine
end

