-- ==== Sys2Proof/Laws/InputLine.lean ====
section
/-! SUPPORT. The input line: the frame of each input's turn, and the setting value's digits. -/

namespace Sys2Proof.Machine

/-! ### The trigger's action -/

/-- A launch, field by field. -/
theorem launch_eq (s : State) :
    launch s = { s with
      eng := .counting, mode := .up, page := .time, sec := 0, min := 0, hr := 0, days := 0
      cent := s.dur.readCentury.1, midf := s.dur.readCentury.2
      ie := s.ie.set .trig false, armed := s.armed.set .trig false
      uq := s.uq ++ s.dur.recordUops .lts (stampWords s.tsLatch) ++ s.dur.recordUops .lflag [1] ++ [.emit eventRtcReset]
      display := paintDayPage s.params.segMap 0 (countingDisplay s.cache 0 0 0 s.params.segMap s.display) } := by
  simp only [launch, enterCounting_eq, launchTime, launchQueue, disableTrigger, State.writeDurable, State.enqueue,
    State.paint, BitVec.reduceToNat]

/-- A commit, field by field. -/
theorem commit_eq (s : State) :
    commit s = { s with
      eng := .counting, mode := .down, page := .time
      sec := (s.setDuration s.setting.seconds).sec, min := (s.setDuration s.setting.seconds).min
      hr := (s.setDuration s.setting.seconds).hr, days := (s.setDuration s.setting.seconds).days
      uq := s.uq ++ [.emit eventRtcReset]
      display := countingDisplay s.cache (s.setDuration s.setting.seconds).sec.toNat
        (s.setDuration s.setting.seconds).min.toNat (s.setDuration s.setting.seconds).hr.toNat
        s.params.segMap s.display } := by
  simp only [commit, enterCounting_eq, State.setDuration, State.enqueue]

/-- The trigger's action changes no input bit but the trigger's arming and enable. -/
theorem actTrigger_bits (s : State) :
    (actTrigger s).pin = s.pin ∧ (actTrigger s).ifg = s.ifg ∧ (actTrigger s).edge = s.edge
      ∧ (actTrigger s).debSet = s.debSet ∧ (∀ i, i ≠ .trig → (actTrigger s).armed.get i = s.armed.get i)
      ∧ (∀ i, i ≠ .trig → (actTrigger s).ie.get i = s.ie.get i) := by
  unfold actTrigger
  cases s.params.config
  · simp only [commit_eq]
    exact ⟨trivial, trivial, trivial, trivial, fun _ _ => trivial, fun _ _ => trivial⟩
  · simp only [launch_eq]
    exact ⟨trivial, trivial, trivial, trivial, fun i h => InputBits.get_set_other _ _ h, fun i h => InputBits.get_set_other _ _ h⟩

/-! ### One input's turn in SETTLE_DONE (43_input R127) -/

/-- The outcome of a re-sample, by the awaited edge and the pin. -/
theorem settleInput_cases (i : Input) (s : State) :
    (s.edge.get i = false ∧ s.pin.get i = false
        ∧ settleInput i s = confirmPress i { s with ifg := s.ifg.set i false })
      ∨ (s.edge.get i = true ∧ s.pin.get i = true
        ∧ settleInput i s = confirmRelease i { s with ifg := s.ifg.set i false })
      ∨ (s.edge.get i ≠ s.pin.get i ∧ settleInput i s = { s with ifg := s.ifg.set i false }) := by
  unfold settleInput State.pressed Config.activeLevel
  cases h : s.edge.get i <;> cases h' : s.pin.get i <;> simp [h, h']

/-- A confirmed press without the trigger's action. -/
theorem confirmPress_quiet {i : Input} {s : State} (h : triggerActs i s = false) :
    confirmPress i s = { s with edge := s.edge.set i true, armed := s.armed.set i false } := by
  simp [confirmPress, h]

/-- A confirmed press with the trigger's action. -/
theorem confirmPress_acts {i : Input} {s : State} (h : triggerActs i s = true) :
    confirmPress i s = { actTrigger s with
      edge := (actTrigger s).edge.set i true, armed := (actTrigger s).armed.set i false } := by
  simp [confirmPress, h]

/-- A confirmed release: the trigger stays unarmed while it is disabled. -/
theorem confirmRelease_eq (i : Input) (s : State) :
    confirmRelease i s = { s with
      edge := s.edge.set i false
      armed := if i = .trig ∧ s.ie.trig = false then s.armed else s.armed.set i true } := by
  unfold confirmRelease
  by_cases h : i = .trig ∧ s.ie.trig = false
  · rw [if_pos h, if_pos h]
  · rw [if_neg h, if_neg h]

/-- The trigger's action does not depend on the interrupt flags. -/
theorem actTrigger_ifg (s : State) (f : InputBits) :
    actTrigger { s with ifg := f } = { actTrigger s with ifg := f } := by
  unfold actTrigger
  cases s.params.config
  · simp only [commit_eq]; rfl
  · simp only [launch_eq]

theorem triggerActs_iff (i : Input) (s : State) :
    triggerActs i s = true ↔ i = .trig ∧ s.armed.trig = true ∧ s.eng = .setting := by
  simp [triggerActs, and_assoc]

/-- The turn of a button writes its own three bits only. -/
theorem settleTurn_button {i : Input} (h : i ≠ .trig) (s : State) :
    settleTurn i s = { s with
      ifg := (settleTurn i s).ifg, edge := (settleTurn i s).edge, armed := (settleTurn i s).armed }
      ∧ ∀ j, j ≠ i → (settleTurn i s).ifg.get j = s.ifg.get j ∧ (settleTurn i s).edge.get j = s.edge.get j
          ∧ (settleTurn i s).armed.get j = s.armed.get j := by
  unfold settleTurn
  split
  · rcases settleInput_cases i s with ⟨_, _, e⟩ | ⟨_, _, e⟩ | ⟨_, e⟩ <;> rw [e]
    · have hq : triggerActs i { s with ifg := s.ifg.set i false } = false := by
        rw [← Bool.not_eq_true, triggerActs_iff]; exact fun x => h x.1
      rw [confirmPress_quiet hq]
      exact ⟨rfl, fun j hj => ⟨InputBits.get_set_other _ _ hj, InputBits.get_set_other _ _ hj,
        InputBits.get_set_other _ _ hj⟩⟩
    · unfold confirmRelease
      rw [if_neg fun x => h x.1]
      exact ⟨rfl, fun j hj => ⟨InputBits.get_set_other _ _ hj, InputBits.get_set_other _ _ hj,
        InputBits.get_set_other _ _ hj⟩⟩
    · exact ⟨rfl, fun j hj => ⟨InputBits.get_set_other _ _ hj, rfl, rfl⟩⟩
  · exact ⟨rfl, fun j hj => ⟨rfl, rfl, rfl⟩⟩

/-- Any turn leaves the bits of the other inputs alone. -/
theorem settleTurn_other (i : Input) (s : State) {j : Input} (hj : j ≠ i) :
    (settleTurn i s).ifg.get j = s.ifg.get j ∧ (settleTurn i s).edge.get j = s.edge.get j
      ∧ (j ≠ .trig → (settleTurn i s).armed.get j = s.armed.get j) := by
  unfold settleTurn
  split
  · rcases settleInput_cases i s with ⟨_, _, e⟩ | ⟨_, _, e⟩ | ⟨_, e⟩ <;> rw [e]
    · cases hq : triggerActs i { s with ifg := s.ifg.set i false }
      · rw [confirmPress_quiet hq]
        exact ⟨InputBits.get_set_other _ _ hj, InputBits.get_set_other _ _ hj,
          fun _ => InputBits.get_set_other _ _ hj⟩
      · rw [confirmPress_acts hq]
        obtain ⟨_, h2, h3, _, h5, _⟩ := actTrigger_bits { s with ifg := s.ifg.set i false }
        refine ⟨?_, ?_, fun ht => ?_⟩
        · show (actTrigger _).ifg.get j = _
          rw [h2]; exact InputBits.get_set_other _ _ hj
        · show ((actTrigger _).edge.set i true).get j = _
          rw [InputBits.get_set_other _ _ hj, h3]
        · show ((actTrigger _).armed.set i false).get j = _
          rw [InputBits.get_set_other _ _ hj, h5 j ht]
    · unfold confirmRelease
      by_cases hr : i = .trig ∧ s.ie.trig = false
      · rw [if_pos hr]
        exact ⟨InputBits.get_set_other _ _ hj, InputBits.get_set_other _ _ hj, fun _ => rfl⟩
      · rw [if_neg hr]
        exact ⟨InputBits.get_set_other _ _ hj, InputBits.get_set_other _ _ hj,
          fun _ => InputBits.get_set_other _ _ hj⟩
    · exact ⟨InputBits.get_set_other _ _ hj, rfl, fun _ => rfl⟩
  · exact ⟨rfl, rfl, fun _ => rfl⟩

/-- A turn does not depend on the interrupt flags, and clears its own. -/
theorem settleTurn_ifg (i : Input) (s : State) (f : InputBits) :
    settleTurn i { s with ifg := f } =
      { settleTurn i s with ifg := if s.debSet.get i then f.set i false else f } := by
  unfold settleTurn
  by_cases hd : s.debSet.get i = true
  · simp only [hd, if_true]
    rcases settleInput_cases i s with ⟨h1, h2, e⟩ | ⟨h1, h2, e⟩ | ⟨h1, e⟩ <;>
      rcases settleInput_cases i { s with ifg := f } with ⟨g1, g2, e'⟩ | ⟨g1, g2, e'⟩ | ⟨g1, e'⟩ <;>
      simp only at g1 <;> try (simp only at g2)
    · rw [e, e']
      cases hq : triggerActs i s
      · rw [confirmPress_quiet (s := { s with ifg := s.ifg.set i false }) hq,
          confirmPress_quiet (s := { s with ifg := f.set i false }) hq]
      · rw [confirmPress_acts (s := { s with ifg := s.ifg.set i false }) hq,
          confirmPress_acts (s := { s with ifg := f.set i false }) hq]
        rw [actTrigger_ifg s (s.ifg.set i false), actTrigger_ifg s (f.set i false)]
    · simp_all
    · simp_all
    · simp_all
    · rw [e, e', confirmRelease_eq, confirmRelease_eq]
    · simp_all
    · simp_all
    · simp_all
    · rw [e, e']
  · simp only [hd, Bool.false_eq_true, if_false]

/-- After the buttons' turns only the buttons' bits have changed. -/
theorem settleButtons_frame (s : State) : ∃ f e a : InputBits,
    settleTurn .inc (settleTurn .adv s) = { s with ifg := f, edge := e, armed := a }
      ∧ f.trig = s.ifg.trig ∧ e.trig = s.edge.trig ∧ a.trig = s.armed.trig := by
  obtain ⟨fA, oA⟩ := settleTurn_button (i := .adv) (by decide) s
  obtain ⟨fI, oI⟩ := settleTurn_button (i := .inc) (by decide) (settleTurn .adv s)
  have a := oA .trig (by decide)
  have b := oI .trig (by decide)
  refine ⟨(settleTurn .inc (settleTurn .adv s)).ifg, (settleTurn .inc (settleTurn .adv s)).edge,
    (settleTurn .inc (settleTurn .adv s)).armed, ?_, b.1.trans a.1, b.2.1.trans a.2.1, b.2.2.trans a.2.2⟩
  have e1 : settleTurn .inc (settleTurn .adv s) = { settleTurn .adv s with
      ifg := (settleTurn .inc (settleTurn .adv s)).ifg, edge := (settleTurn .inc (settleTurn .adv s)).edge
      armed := (settleTurn .inc (settleTurn .adv s)).armed } := fI
  generalize settleTurn .inc (settleTurn .adv s) = y at e1 ⊢
  rw [e1]
  generalize settleTurn .adv s = x at fA ⊢
  rw [fA]

/-! ### The setting value (43_input R131, R132) -/

theorem Setting.dig_setDigit (t : Setting) (k j : Fin 5) (v : Nat) :
    (t.setDigit k v).dig.get j = if k = j then BitVec.ofNat 4 v else t.dig.get j := by
  show (t.dig.set k.val (BitVec.ofNat 4 v))[j.val] = if k = j then BitVec.ofNat 4 v else t.dig[j.val]
  rw [Vector.getElem_set]
  simp only [Fin.ext_iff]

@[simp] theorem Setting.digit_setDigit_same (t : Setting) (k : Fin 5) {v : Nat} (h : v < 16) :
    (t.setDigit k v).digit k = v := by
  rw [Setting.digit, Setting.dig_setDigit, if_pos rfl, BitVec.toNat_ofNat, Nat.mod_eq_of_lt h]

theorem Setting.digit_setDigit_other (t : Setting) {k j : Fin 5} (v : Nat) (h : j ≠ k) :
    (t.setDigit k v).digit j = t.digit j := by
  rw [Setting.digit, Setting.dig_setDigit, if_neg (Ne.symm h), Setting.digit]

@[simp] theorem Setting.setDigit_unit (t : Setting) (k : Fin 5) (v : Nat) : (t.setDigit k v).unit = t.unit := rfl

@[simp] theorem Setting.setDigit_cursor (t : Setting) (k : Fin 5) (v : Nat) : (t.setDigit k v).cursor = t.cursor := rfl

theorem Setting.cursorDigit_zero {t : Setting} (h : t.cursor = 0) : t.cursorDigit = none := by
  simp [Setting.cursorDigit, h]

theorem Setting.cursorDigit_succ {t : Setting} {k : Fin 5} (h : t.cursor = k.succ) : t.cursorDigit = some k := by
  simp [Setting.cursorDigit, h]

/-- What the clamp leaves, digit by digit. -/
theorem Setting.capHundreds_digit (t : Setting) :
    t.capHundreds.digit 0 = t.digit 0 ∧ t.capHundreds.digit 1 = t.digit 1
      ∧ t.capHundreds.digit 2 = Nat.min (t.digit 2) 1 ∧ t.capHundreds.digit 3 = 0 ∧ t.capHundreds.digit 4 = 0 := by
  have hm : Nat.min (t.digit 2) 1 < 16 := Nat.lt_of_le_of_lt (Nat.min_le_right _ _) (by decide)
  unfold Setting.capHundreds
  refine ⟨?_, ?_, Setting.digit_setDigit_same _ _ hm, ?_, ?_⟩ <;>
    simp [Setting.digit_setDigit_other]

theorem Setting.clampUnit_other {t : Setting} (h : t.unit ≠ .years) : t.clampUnit = t := if_neg h

@[simp] theorem Setting.clampUnit_unit (t : Setting) : t.clampUnit.unit = t.unit := by
  unfold Setting.clampUnit Setting.clearBelowHundred
  split <;> [(split <;> rfl); rfl]

@[simp] theorem Setting.clampUnit_cursor (t : Setting) : t.clampUnit.cursor = t.cursor := by
  unfold Setting.clampUnit Setting.clearBelowHundred
  split <;> [(split <;> rfl); rfl]

end Sys2Proof.Machine
end

