-- ==== Sys2Proof/Laws/Frames.lean ====
section
/-! SUPPORT. Frames: for each procedure of a step, the fields it can write, as an equation of the state with itself. A
prover cites the frame and never unfolds the procedure. -/

namespace Sys2Proof.Machine

/-- The century bookkeeping writes CENT and MIDF and queues their write. -/
theorem centBook_frame (s : State) :
    centBook s = { s with cent := (centBook s).cent, midf := (centBook s).midf, uq := (centBook s).uq } := by
  rcases centBook_cases s with ⟨-, e⟩ | ⟨-, -, -, e⟩ | ⟨-, -, e⟩ <;> rw [e] <;> rfl

/-- The end of a day rollover writes the engine, the time registers, PAGE and the display. -/
theorem finishDay_frame (s : State) :
    finishDay s = { s with
      eng := (finishDay s).eng, sec := (finishDay s).sec, min := (finishDay s).min, hr := (finishDay s).hr
      days := (finishDay s).days, page := (finishDay s).page, display := (finishDay s).display } := by
  rcases finishDay_cases s with ⟨-, e⟩ | ⟨-, e⟩ <;> rw [e] <;> rfl

/-- A day rollover writes the engine, the time, the century and the display, and queues µops. -/
theorem rollDay_frame (s : State) :
    rollDay s = { s with
      eng := (rollDay s).eng, sec := (rollDay s).sec, min := (rollDay s).min, hr := (rollDay s).hr
      days := (rollDay s).days, page := (rollDay s).page, cent := (rollDay s).cent, midf := (rollDay s).midf
      uq := (rollDay s).uq, display := (rollDay s).display } := by
  have h := finishDay_frame (centBook { s with days := s.days + 1 })
  have c := centBook_frame { s with days := s.days + 1 }
  unfold rollDay
  generalize finishDay (centBook { s with days := s.days + 1 }) = y at h ⊢
  generalize centBook { s with days := s.days + 1 } = x at h c
  rw [h, c]

/-- A count-up tick writes the engine, the time, the century and the display, and queues µops. -/
theorem tickUp_frame (s : State) :
    tickUp s = { s with
      eng := (tickUp s).eng, sec := (tickUp s).sec, min := (tickUp s).min, hr := (tickUp s).hr
      days := (tickUp s).days, page := (tickUp s).page, cent := (tickUp s).cent, midf := (tickUp s).midf
      uq := (tickUp s).uq, display := (tickUp s).display } := by
  unfold tickUp
  split
  · rfl
  · unfold carryMinute
    split
    · rfl
    · unfold carryHour
      split
      · rfl
      · exact rollDay_frame _

/-- A countdown tick writes the engine, the time and the display, and queues µops. -/
theorem tickDown_frame (s : State) :
    tickDown s = { s with
      eng := (tickDown s).eng, sec := (tickDown s).sec, min := (tickDown s).min, hr := (tickDown s).hr
      days := (tickDown s).days, uq := (tickDown s).uq, display := (tickDown s).display } := by
  unfold tickDown
  split
  · rfl
  · have h := borrowSecond_frame s
    unfold unlockIfZero
    generalize borrowSecond s = y at h ⊢
    rw [h]
    split <;> rfl

/-- What TICK_DISPATCH can write (41_engine R96). -/
theorem dispatchTick_frame (s : State) :
    dispatchTick s = { s with
      eng := (dispatchTick s).eng, sec := (dispatchTick s).sec, min := (dispatchTick s).min, hr := (dispatchTick s).hr
      days := (dispatchTick s).days, page := (dispatchTick s).page, cent := (dispatchTick s).cent
      midf := (dispatchTick s).midf, tickIfg := false, uq := (dispatchTick s).uq
      display := (dispatchTick s).display } := by
  by_cases he : s.eng = .counting
  · cases hm : s.mode with
    | down =>
      rw [dispatchTick_down he hm]
      have h := tickDown_frame { s with tickIfg := false }
      generalize tickDown { s with tickIfg := false } = y at h ⊢
      rw [h]
      simp only [hm]
    | up =>
      rw [dispatchTick_up he hm]
      have h := tickUp_frame { s with tickIfg := false }
      generalize tickUp { s with tickIfg := false } = y at h ⊢
      rw [h]
      simp only [hm]
  · rw [dispatchTick_other he]

/-- What INPUT_ENTRY can write (43_input R126). -/
theorem enterInput_frame (s : State) :
    enterInput s = { s with
      setting := (enterInput s).setting, display := (enterInput s).display, debSet := s.requests, debActive := true } := by
  unfold enterInput entryIncrement entryAdvance
  split <;> split <;> rfl

/-- What the trigger's action can write (43_input R135). -/
theorem actTrigger_frame (s : State) :
    actTrigger s = { s with
      eng := (actTrigger s).eng, mode := (actTrigger s).mode, sec := (actTrigger s).sec, min := (actTrigger s).min
      hr := (actTrigger s).hr, days := (actTrigger s).days, page := (actTrigger s).page, cent := (actTrigger s).cent
      midf := (actTrigger s).midf, ie := (actTrigger s).ie, armed := (actTrigger s).armed
      uq := (actTrigger s).uq, display := (actTrigger s).display } := by
  unfold actTrigger
  cases s.params.config
  · simp only [commit_eq]
  · simp only [launch_eq]

/-- What one input's re-sample can write (43_input R127). -/
theorem settleInput_frame (i : Input) (s : State) :
    settleInput i s = { s with
      eng := (settleInput i s).eng, mode := (settleInput i s).mode, sec := (settleInput i s).sec
      min := (settleInput i s).min, hr := (settleInput i s).hr, days := (settleInput i s).days
      page := (settleInput i s).page, cent := (settleInput i s).cent, midf := (settleInput i s).midf
      ie := (settleInput i s).ie, armed := (settleInput i s).armed, edge := (settleInput i s).edge
      ifg := s.ifg.set i false, uq := (settleInput i s).uq, display := (settleInput i s).display } := by
  rcases settleInput_cases i s with ⟨-, -, e⟩ | ⟨-, -, e⟩ | ⟨-, e⟩ <;> rw [e]
  · cases h : triggerActs i { s with ifg := s.ifg.set i false } with
    | false => rw [confirmPress_quiet h]
    | true =>
      rw [confirmPress_acts h]
      have a := actTrigger_frame { s with ifg := s.ifg.set i false }
      generalize actTrigger { s with ifg := s.ifg.set i false } = y at a ⊢
      rw [a]
  · rw [confirmRelease_eq]

/-- What one input's turn in SETTLE_DONE can write. -/
theorem settleTurn_frame (i : Input) (s : State) :
    settleTurn i s = { s with
      eng := (settleTurn i s).eng, mode := (settleTurn i s).mode, sec := (settleTurn i s).sec
      min := (settleTurn i s).min, hr := (settleTurn i s).hr, days := (settleTurn i s).days
      page := (settleTurn i s).page, cent := (settleTurn i s).cent, midf := (settleTurn i s).midf
      ie := (settleTurn i s).ie, armed := (settleTurn i s).armed, edge := (settleTurn i s).edge
      ifg := (settleTurn i s).ifg, uq := (settleTurn i s).uq, display := (settleTurn i s).display } := by
  unfold settleTurn
  split
  · have h := settleInput_frame i s
    generalize settleInput i s = y at h ⊢
    rw [h]
  · rfl

/-- What SETTLE_DONE can write (43_input R127). -/
theorem settleInputs_frame (s : State) :
    settleInputs s = { s with
      eng := (settleInputs s).eng, mode := (settleInputs s).mode, sec := (settleInputs s).sec
      min := (settleInputs s).min, hr := (settleInputs s).hr, days := (settleInputs s).days
      page := (settleInputs s).page, cent := (settleInputs s).cent, midf := (settleInputs s).midf
      ie := (settleInputs s).ie, armed := (settleInputs s).armed, edge := (settleInputs s).edge
      ifg := (settleInputs s).ifg, uq := (settleInputs s).uq, display := (settleInputs s).display
      debSet := InputBits.zero, debActive := false } := by
  obtain ⟨f, e, a, hb, -⟩ := settleButtons_frame s
  unfold settleInputs
  rw [hb]
  have h := settleTurn_frame .trig { s with ifg := f, edge := e, armed := a }
  generalize settleTurn .trig { s with ifg := f, edge := e, armed := a } = y at h ⊢
  rw [h]

/-- What a boot restore can write (41_engine R111). -/
theorem bootRestore_frame (p : Stamp) (s : State) :
    bootRestore p s = { s with
      eng := (bootRestore p s).eng, errCode := (bootRestore p s).errCode, mode := (bootRestore p s).mode
      sec := (bootRestore p s).sec, min := (bootRestore p s).min, hr := (bootRestore p s).hr
      days := (bootRestore p s).days, page := (bootRestore p s).page, cent := (bootRestore p s).cent
      midf := (bootRestore p s).midf, uq := (bootRestore p s).uq, display := (bootRestore p s).display } := by
  unfold bootRestore
  split
  · unfold restoreCentury
    rcases correctCentury_cases s s.dur.readCentury.1 s.dur.readCentury.2 (stampFields p).yy with
      ⟨-, -, e⟩ | ⟨-, -, e⟩ | ⟨-, -, e⟩ <;> rw [e]
    all_goals
      unfold resumeCount
      split <;> rfl
  · rfl

/-- What BOOT can write (44_host R137). -/
theorem hostBoot_frame (p : Stamp) (s : State) :
    hostBoot p s = { s with
      eng := (hostBoot p s).eng, errCode := (hostBoot p s).errCode, mode := (hostBoot p s).mode
      sec := (hostBoot p s).sec, min := (hostBoot p s).min, hr := (hostBoot p s).hr, days := (hostBoot p s).days
      page := (hostBoot p s).page, cent := (hostBoot p s).cent, midf := (hostBoot p s).midf
      ie := (hostBoot p s).ie, ifg := (hostBoot p s).ifg, armed := (hostBoot p s).armed
      tickIfg := (hostBoot p s).tickIfg, tickIe := (hostBoot p s).tickIe, cmdReject := (hostBoot p s).cmdReject
      rejectReason := (hostBoot p s).rejectReason, cacheValid := (hostBoot p s).cacheValid
      cache := (hostBoot p s).cache, display := (hostBoot p s).display, uq := (hostBoot p s).uq } := by
  unfold hostBoot
  split
  · unfold bootBlock
    split
    · have hb : (bootDisplay s).buildCache = { s with
          cache := (bootDisplay s).buildCache.cache, cacheValid := (bootDisplay s).buildCache.cacheValid
          display := (bootDisplay s).buildCache.display } := by
        unfold State.buildCache; split <;> rfl
      unfold bootEngine
      split
      · have h := bootRestore_frame p (disableTrigger (bootEnables (bootDisplay s).buildCache))
        generalize bootRestore p (disableTrigger (bootEnables (bootDisplay s).buildCache)) = y at h ⊢
        generalize (bootDisplay s).buildCache = x at h hb
        rw [h, hb]; rfl
      · generalize (bootDisplay s).buildCache = x at hb ⊢
        rw [hb]; rfl
    · rfl
  · rfl

end Sys2Proof.Machine
end

