-- ==== Sys2Proof/Laws/PerInstr.lean ====
section
/-! SUPPORT. Statements about every label, one lemma per constructor of Instr. The family ClassBits: the encoding of a
label carries the CLASS of its operation and RSV 0 (30_encoding R60, R67). -/

namespace Sys2Proof.Laws

/-- The CLASS code of a label class (30_encoding R60). -/
def classCode : LabelClass → BitVec 4
  | .command => 0
  | .event => 1
  | .internal => 2
  | .uop => 3

/-- The family's statement about one label. -/
def ClassBits.Statement (i : Instr) : Prop := (encode i).cls = classCode i.labelClass ∧ (encode i).rsv = 0

theorem ClassBits.boot (p : Stamp) : ClassBits.Statement (.boot p) := by
  simp [ClassBits.Statement, encode, classCode, Instr.labelClass]

theorem ClassBits.unlockDone : ClassBits.Statement .unlockDone := by
  simp [ClassBits.Statement, encode, classCode, Instr.labelClass]

theorem ClassBits.commission (p : Stamp) : ClassBits.Statement (.commission p) := by
  simp [ClassBits.Statement, encode, classCode, Instr.labelClass]

theorem ClassBits.setTsLatch (p : Stamp) : ClassBits.Statement (.setTsLatch p) := by
  simp [ClassBits.Statement, encode, classCode, Instr.labelClass]

theorem ClassBits.clearStatus : ClassBits.Statement .clearStatus := by
  simp [ClassBits.Statement, encode, classCode, Instr.labelClass]

theorem ClassBits.tickEdge : ClassBits.Statement .tickEdge := by
  simp [ClassBits.Statement, encode, classCode, Instr.labelClass]

theorem ClassBits.pinChange (i : Input) (lvl : Bool) : ClassBits.Statement (.pinChange i lvl) := by
  simp [ClassBits.Statement, encode, classCode, Instr.labelClass]

theorem ClassBits.powerLoss : ClassBits.Statement .powerLoss := by
  simp [ClassBits.Statement, encode, classCode, Instr.labelClass]

theorem ClassBits.tickDispatch : ClassBits.Statement .tickDispatch := by
  simp [ClassBits.Statement, encode, classCode, Instr.labelClass]

theorem ClassBits.inputEntry : ClassBits.Statement .inputEntry := by
  simp [ClassBits.Statement, encode, classCode, Instr.labelClass]

theorem ClassBits.settleDone : ClassBits.Statement .settleDone := by
  simp [ClassBits.Statement, encode, classCode, Instr.labelClass]

theorem ClassBits.uopStep : ClassBits.Statement .uopStep := by
  simp [ClassBits.Statement, encode, classCode, Instr.labelClass]

theorem ClassBits.dww (a : BitVec 8) (v : Word) : ClassBits.Statement (.dww a v) := by
  simp [ClassBits.Statement, encode, classCode, Instr.labelClass]

theorem ClassBits.wpu : ClassBits.Statement .wpu := by
  simp [ClassBits.Statement, encode, classCode, Instr.labelClass]

theorem ClassBits.wpl : ClassBits.Statement .wpl := by
  simp [ClassBits.Statement, encode, classCode, Instr.labelClass]

theorem ClassBits.emit (e : BitVec 8) : ClassBits.Statement (.emit e) := by
  simp [ClassBits.Statement, encode, classCode, Instr.labelClass]

end Sys2Proof.Laws
end

