-- ==== Sys2Proof/Laws/RegisterMap.lean ====
section
/-! SUPPORT. The host register space, one lemma per register (10_state R42). -/

namespace Sys2Proof.Machine

variable (s : State)

theorem hostRead_status : hostRead s 0x000 = statusReg s := rfl
theorem hostRead_time : hostRead s 0x001 = timeReg s := rfl
theorem hostRead_days : hostRead s 0x002 = s.days := rfl
theorem hostRead_century : hostRead s 0x003 = centuryReg s := rfl
theorem hostRead_setting : hostRead s 0x004 = settingReg s := rfl
theorem hostRead_input : hostRead s 0x005 = inputReg s := rfl
theorem hostRead_tick : hostRead s 0x006 = tickReg s := rfl
theorem hostRead_dispCtl : hostRead s 0x007 = dispCtlReg s := rfl
theorem hostRead_tsLo : hostRead s 0x008 = s.tsLatch.extractLsb' 0 32 := rfl
theorem hostRead_tsHi : hostRead s 0x009 = (s.tsLatch.extractLsb' 32 16).setWidth 32 := rfl
theorem hostRead_uqLen : hostRead s 0x00A = (BitVec.ofNat 16 s.uq.length).setWidth 32 := rfl

/-- A field of a register is what its bits say. -/
theorem extract_eq {n : Nat} (x : BitVec n) (lo len : Nat) (y : BitVec len)
    (h : ∀ i, i < len → x.getLsbD (lo + i) = y.getLsbD i) : x.extractLsb' lo len = y := by
  apply BitVec.eq_of_getLsbD_eq
  intro i hi
  simp [hi, h i hi]

end Sys2Proof.Machine
end

