-- ==== Sys2Proof/Laws/Scheduling.lean ====
section
/-! SUPPORT. What is enabled at a step boundary: the block's own next step by cases, the enabling wrappers, and what
an action of the boundary can be. -/

namespace Sys2Proof.Machine

theorem State.requests_some_iff (s : State) :
    s.requests.some = true ↔ ∃ i : Input, s.ifg.get i = true ∧ s.ie.get i = true := by
  constructor
  · intro h
    simp only [State.requests, InputBits.some, InputBits.both, Bool.or_eq_true, Bool.and_eq_true] at h
    rcases h with (h | h) | h
    · exact ⟨.adv, h⟩
    · exact ⟨.inc, h⟩
    · exact ⟨.trig, h⟩
  · rintro ⟨i, h1, h2⟩
    simp only [State.requests, InputBits.some, InputBits.both, Bool.or_eq_true, Bool.and_eq_true]
    cases i
    · exact .inl (.inl ⟨h1, h2⟩)
    · exact .inl (.inr ⟨h1, h2⟩)
    · exact .inr ⟨h1, h2⟩

theorem State.ownStep_uopStep (s : State) : s.ownStep = some .uopStep ↔ s.uq ≠ [] := by
  unfold State.ownStep
  cases s.uq <;> cases s.debActive <;> cases s.tickRequest <;> cases s.requests.some <;> simp

theorem State.ownStep_settleDone (s : State) : s.ownStep = some .settleDone ↔ s.SettleEnabled := by
  unfold State.ownStep State.SettleEnabled
  cases s.uq <;> cases s.debActive <;> cases s.tickRequest <;> cases s.requests.some <;> simp

theorem State.ownStep_tickDispatch (s : State) : s.ownStep = some .tickDispatch ↔ s.TickEnabled := by
  unfold State.ownStep State.TickEnabled State.Quiescent State.tickRequest
  cases s.uq <;> cases s.debActive <;> cases s.tickIfg <;> cases s.tickIe <;> cases s.requests.some <;> simp

theorem State.ownStep_inputEntry (s : State) : s.ownStep = some .inputEntry ↔ s.EntryEnabled := by
  unfold State.EntryEnabled State.Quiescent
  rw [← State.requests_some_iff]
  unfold State.ownStep State.tickRequest
  cases s.uq <;> cases s.debActive <;> cases s.tickIfg <;> cases s.tickIe <;> cases s.requests.some <;> simp

theorem State.ownStep_none (s : State) : s.ownStep = none ↔ s.CommandEnabled := by
  have h := State.requests_some_iff s
  unfold State.CommandEnabled State.Quiescent
  have h' : (∀ i : Input, ¬(s.ifg.get i = true ∧ s.ie.get i = true)) ↔ s.requests.some = false := by
    rw [← Bool.not_eq_true, h, not_exists]
  rw [h']
  unfold State.ownStep State.tickRequest
  cases s.uq <;> cases s.debActive <;> cases s.tickIfg <;> cases s.tickIe <;> cases s.requests.some <;> simp

theorem State.hostReady_iff (s : State) : s.hostReady = true ↔ s.CommandEnabled := by
  rw [← State.ownStep_none]
  unfold State.hostReady
  cases s.ownStep <;> simp

/-- An enabled internal step gives a next state exactly where R147 enables it. -/
theorem whenEnabled_next (k : InternalStep) (s t t' : State) :
    whenEnabled k s (.next t) = .next t' ↔ s.ownStep = some k ∧ t' = t := by
  unfold whenEnabled
  split <;> rename_i h
  · simp [h, eq_comm]
  · simp [h]

theorem whenEnabled_of {k : InternalStep} {s : State} (h : s.ownStep = some k) (r : Result) :
    whenEnabled k s r = r := if_pos h

/-- A command gives a next state exactly where HOST_CMD is enabled. -/
theorem whenHostReady_next (s t t' : State) :
    whenHostReady s (.next t) = .next t' ↔ s.CommandEnabled ∧ t' = t := by
  unfold whenHostReady
  rw [← State.hostReady_iff]
  split <;> rename_i h
  · simp [h, eq_comm]
  · simp [h]

theorem whenHostReady_of {s : State} (h : s.CommandEnabled) (r : Result) : whenHostReady s r = r :=
  if_pos ((State.hostReady_iff s).mpr h)

/-- What the block's own action can be. -/
theorem ownAction_cases (s : State) :
    (∃ k, s.ownStep = some k ∧ ownAction s = .run k.toInstr s) ∨ (s.ownStep = none ∧ ownAction s = .goto s) := by
  unfold ownAction
  cases h : s.ownStep with
  | none => exact .inr ⟨rfl, rfl⟩
  | some k => exact .inl ⟨k, rfl, rfl⟩

/-- What the port's action can be: a command run, a refusal with reason 1, or the block's own action. -/
theorem portAction_cases (w : Label) (s : State) :
    (∃ i, s.CommandEnabled ∧ decodeCommand w = some i ∧ portAction w s = .run i s.takeOffer)
      ∨ (s.CommandEnabled ∧ decodeCommand w = none ∧ portAction w s = .goto (s.takeOffer.reject reasonReserved))
      ∨ (¬s.CommandEnabled ∧ portAction w s = ownAction s) := by
  unfold portAction
  rw [← State.hostReady_iff]
  by_cases h : s.hostReady = true
  · cases hd : decodeCommand w with
    | none => exact .inr (.inl ⟨h, rfl, by simp [h]⟩)
    | some i => exact .inl ⟨i, h, rfl, by simp [h]⟩
  · exact .inr (.inr ⟨h, by simp [h]⟩)

/-- What the action of a step boundary can be: the block's own step, an offered label run, a word refused on the
command port, the block asleep, or no step. -/
theorem nextAction_cases (s : State) :
    (∃ k, s.ownStep = some k ∧ nextAction s = .run k.toInstr s)
      ∨ (∃ i, i.labelClass ≠ .uop ∧ nextAction s = .run i s.takeOffer)
      ∨ nextAction s = .goto (s.takeOffer.reject reasonReserved)
      ∨ nextAction s = .goto s
      ∨ ∃ r, nextAction s = .refuse r := by
  have own : (∃ k, s.ownStep = some k ∧ ownAction s = .run k.toInstr s) ∨ ownAction s = .goto s := by
    rcases ownAction_cases s with h | h
    · exact .inl h
    · exact .inr h.2
  have decoded : ∀ w i, decodeCommand w = some i → i.labelClass = .command := by
    intro w i h
    unfold decodeCommand at h
    split at h <;> [skip; cases h]
    rename_i hc
    cases hd : decode w with
    | error e => rw [hd] at h; cases h
    | ok j =>
      rw [hd] at h
      cases h
      unfold decode at hd
      split at hd <;> [cases hd; skip]
      unfold decodeCommandOp decodeBare at hd
      repeat' split at hd
      all_goals cases hd <;> rfl
  have port : ∀ w, portAction w s = nextAction s →
      (∃ k, s.ownStep = some k ∧ nextAction s = .run k.toInstr s)
        ∨ (∃ i, i.labelClass ≠ .uop ∧ nextAction s = .run i s.takeOffer)
        ∨ nextAction s = .goto (s.takeOffer.reject reasonReserved)
        ∨ nextAction s = .goto s
        ∨ ∃ r, nextAction s = .refuse r := by
    intro w hw
    rw [← hw]
    rcases portAction_cases w s with ⟨i, _, hi, h⟩ | ⟨_, _, h⟩ | ⟨_, h⟩
    · exact .inr (.inl ⟨i, by rw [decoded w i hi]; decide, h⟩)
    · exact .inr (.inr (.inl h))
    · rw [h]
      rcases own with ⟨k, hk, h'⟩ | h'
      · exact .inl ⟨k, hk, h'⟩
      · exact .inr (.inr (.inr (.inl h')))
  cases ho : s.offers with
  | nil =>
    have e : nextAction s = ownAction s := by unfold nextAction; rw [ho]
    rw [e]
    rcases own with h | h
    · exact .inl h
    · exact .inr (.inr (.inr (.inl h)))
  | cons o rest =>
    cases o with
    | port w => exact port w (by unfold nextAction; rw [ho])
    | label w =>
      have e : nextAction s = labelAction w s := by unfold nextAction; rw [ho]
      unfold labelAction at e
      split at e
      · exact port w e.symm
      · cases hd : decode w with
        | error x => rw [hd] at e; exact .inr (.inr (.inr (.inr ⟨_, e⟩)))
        | ok i =>
          rw [hd] at e
          unfold runLabel at e
          cases hc : i.labelClass with
          | command => simp only [hc] at e; exact port w e.symm
          | event => simp only [hc] at e; exact .inr (.inl ⟨i, by rw [hc]; decide, e⟩)
          | internal => simp only [hc] at e; exact .inr (.inl ⟨i, by rw [hc]; decide, e⟩)
          | uop => simp only [hc] at e; exact .inr (.inr (.inr (.inr ⟨_, e⟩)))

/-- A step that answers a next state runs the block's own step, runs an offered label, refuses a word on the command
port, or sleeps. -/
theorem step_cases {s t : State} (h : step s = .next t) :
    (∃ k, s.ownStep = some k ∧ exec k.toInstr s = .next t)
      ∨ (∃ i, i.labelClass ≠ .uop ∧ exec i s.takeOffer = .next t)
      ∨ t = s.takeOffer.reject reasonReserved
      ∨ t = s := by
  unfold step at h
  rcases nextAction_cases s with ⟨k, hk, e⟩ | ⟨i, hi, e⟩ | e | e | ⟨r, e⟩ <;> rw [e] at h
  · exact .inl ⟨k, hk, h⟩
  · exact .inr (.inl ⟨i, hi, h⟩)
  · cases h; exact .inr (.inr (.inl rfl))
  · cases h; exact .inr (.inr (.inr rfl))
  · cases h

end Sys2Proof.Machine
end

