-- ==== Sys2Proof/Tests/Slice0.lean ====
section
/-! SUPPORT. The model's own tests: words written out from 30_encoding, the vectors of 95_test_vectors, and the
witnesses of the statements' hypotheses. Each test is one step or one operation on a small state. -/

namespace Sys2Proof.Tests

open Sys2Proof.Machine

/-- The outcome is a next state with the property. -/
def nextHas (r : Result) (p : State → Bool) : Bool :=
  match r with
  | .next s => p s
  | .fault _ => false
  | .refused _ => false

/-! ### Well-formedness smoke tests -/

theorem test_wf_refuses_dww_address_32 : (Instr.dww 0x20#8 0#16).wellFormed = false := by decide
theorem test_wf_refuses_emit_code_3 : (Instr.emit 3#8).wellFormed = false := by decide
theorem test_wf_accepts_dww_address_31 : (Instr.dww 0x1F#8 0#16).wellFormed = true := by decide

/-! ### Decoding: words of 30_encoding R67 and 95_test_vectors section 2.1 -/

theorem test_decode_boot : decode 0x0100251111120000#64 = .ok (.boot 0x251111120000#48) := by decide
theorem test_decode_unlock_done : decode 0x0200000000000000#64 = .ok .unlockDone := by decide
theorem test_decode_commission : decode 0x0300250102030405#64 = .ok (.commission 0x250102030405#48) := by decide
theorem test_decode_set_ts : decode 0x0400251111120000#64 = .ok (.setTsLatch 0x251111120000#48) := by decide
theorem test_decode_clear_status : decode 0x0500000000000000#64 = .ok .clearStatus := by decide
theorem test_decode_tick_edge : decode 0x1100000000000000#64 = .ok .tickEdge := by decide
theorem test_decode_pin_inc_1 : decode 0x1200000000000101#64 = .ok (.pinChange .inc true) := by decide
theorem test_decode_pin_trig_0 : decode 0x1200000000000002#64 = .ok (.pinChange .trig false) := by decide
theorem test_decode_power_loss : decode 0x1300000000000000#64 = .ok .powerLoss := by decide
theorem test_decode_tick_dispatch : decode 0x2100000000000000#64 = .ok .tickDispatch := by decide
theorem test_decode_input_entry : decode 0x2200000000000000#64 = .ok .inputEntry := by decide
theorem test_decode_settle_done : decode 0x2300000000000000#64 = .ok .settleDone := by decide
theorem test_decode_uop_step : decode 0x2400000000000000#64 = .ok .uopStep := by decide
theorem test_decode_dww : decode 0x31000000000A1112#64 = .ok (.dww 0x0A#8 0x1112#16) := by decide
theorem test_decode_wpu : decode 0x3200000000000000#64 = .ok .wpu := by decide
theorem test_decode_wpl : decode 0x3300000000000000#64 = .ok .wpl := by decide
theorem test_decode_emit : decode 0x3400000000000002#64 = .ok (.emit 2#8) := by decide
theorem test_decode_input_index_3 : decode 0x1200000000000003#64 = .error .reservedInput := by decide
theorem test_decode_rsv_nonzero : decode 0x0201000000000000#64 = .error .reservedBits := by decide
theorem test_decode_unused_operand : decode 0x0500000000000001#64 = .error .unusedOperandBits := by decide
theorem test_decode_emit_code_3 : decode 0x3400000000000003#64 = .error .reservedEvent := by decide
theorem test_decode_class_4 : decode 0x4100000000000000#64 = .error .reservedClass := by decide
theorem test_decode_pin_bit_9 : decode 0x1200000000000200#64 = .error .unusedOperandBits := by decide
theorem test_decode_op_6 : decode 0x0600000000000000#64 = .error .reservedOp := by decide

/-! ### Display (95_test_vectors section 2.2) -/

theorem test_default_layout_ok : layoutOk Config.defaultSegMap = true := by decide

/-- V-G2. -/
theorem test_write_glyph_clears :
    (writeGlyph Config.defaultSegMap .alternate 4 0x06
      { Display.reset with alternate := #v[0, 0, 0xFFFF] }).alternate = #v[0, 0, 0xFF86] := by decide

/-- V-G3. -/
theorem test_cache_word_59 : cacheWord Config.defaultSegMap .sec 59 = 0x6D6F := by decide
theorem test_cache_word_hr_23 : cacheWord Config.defaultSegMap .hr 23 = 0x5B4F := by decide

/-- V-G5. -/
theorem test_day_page_73049 :
    (paintDayPage Config.defaultSegMap 73049 Display.reset).alternate = #v[0x666F, 0x4F3F, 0x0007] := by decide +kernel

/-- V-G7. -/
theorem test_terminal_page : (paintTerminal Config.defaultSegMap Display.reset).primary
    = #v[0x6F6F, 0x6F6F, 0x6F6F] := by decide +kernel

/-- V-G8. -/
theorem test_error_page_2 : (paintError Config.defaultSegMap 2 Display.reset).primary
    = #v[0x005B, 0x5000, 0x7950] := by decide +kernel

/-- V-G6, second row. -/
def ninetyDays : Setting := { unit := .days, dig := #v[0, 9, 0, 0, 0], cursor := 2 }

theorem test_setting_page :
    (paintSettingPage Config.defaultSegMap ninetyDays Display.reset).alternate = #v[0, 0x006F, 0] := by decide +kernel

/-! ### Small states -/

/-- A booted device in SETTING, CONFIG 0, every enable set. -/
def settingState : State :=
  { State.reset with
    eng := .setting, tickIe := true, ie := ⟨true, true, true⟩, cacheValid := true
    cache := cacheWords Config.defaultSegMap }

/-- The same with CONFIG 1. -/
def launchable : State := { settingState with params := { config := .elapsedSinceLaunch, segMap := Config.defaultSegMap } }

/-- Counting down from `sec` seconds of `days` days, a tick pending. -/
def downState (days : BitVec 32) (sec : BitVec 6) : State :=
  { settingState with eng := .counting, mode := .down, days := days, sec := sec, tickIfg := true }

/-- Counting up at the last second of day `days`, a tick pending. -/
def midnight (days : BitVec 32) (cent : BitVec 16) (midf : Bool) (dur : Memory) : State :=
  { launchable with
    eng := .counting, mode := .up, days := days, hr := 23, min := 59, sec := 59, cent := cent, midf := midf
    dur := dur, tickIfg := true }

/-- A launched device in IDLE, with the century record `(c, m)`. -/
def launchedDevice (c m : Word) : State :=
  { State.reset with
    params := { config := .elapsedSinceLaunch, segMap := Config.defaultSegMap }
    dur := ((Memory.write [] 1 c).write 2 m).write 6 1 }

/-- A launched device whose CREC write was cut, (27, 0) in its backup. -/
def cutDevice : State := { launchedDevice 26 1 with dur := [(0, 1), (1, 26), (2, 1), (3, 27), (6, 1)] }

/-- A settle of the confirmed inputs of `set`, every pin pressed. -/
def settling (s : State) (set : InputBits) : State :=
  { s with debActive := true, debSet := set, ifg := set, pin := ⟨false, false, false⟩ }

/-- The time registers as numbers. -/
def clockOf (s : State) : Nat × Nat × Nat × Nat := (s.days.toNat, s.hr.toNat, s.min.toNat, s.sec.toNat)

/-! ### One step of each label (95_test_vectors sections 2.3 to 2.8) -/

/-- V-R2, in part. -/
theorem test_boot_enters_setting :
    nextHas (exec (.boot 0x251111120000#48) State.reset) (fun t =>
      decide (t.eng = .setting ∧ t.ie = ⟨true, true, true⟩ ∧ t.tickIe = true ∧ t.cacheValid = true)) = true := by
  decide +kernel

/-- V-T13; and 44_host R137: a restore that finds an interrupted CREC write queues its repair. -/
theorem test_boot_restores :
    nextHas (exec (.boot 0x010315080910#48) (launchedDevice 0 1)) (fun t =>
        decide (t.eng = .counting ∧ t.cent = 1 ∧ t.midf = false ∧ clockOf t = (36964, 8, 9, 10)
          ∧ t.uq.length = 8)) = true
      ∧ nextHas (exec (.boot 0x371106235959#48) cutDevice) (fun t =>
        decide (t.eng = .counting ∧ t.cent = 27 ∧ t.midf = false
          ∧ t.uq = [.wpu, .dww 1 27, .dww 2 0, .dww 0 0, .wpl])) = true := by
  decide +kernel

/-- V-H9. -/
theorem test_unlock_done_returns :
    nextHas (exec .unlockDone { settingState with eng := .unlocking }) (fun t => decide (t.eng = .setting)) = true := by
  decide +kernel

/-- V-H1. -/
theorem test_unlock_done_in_idle_is_refused :
    nextHas (exec .unlockDone State.reset) (fun t => decide (t.cmdReject = true ∧ t.rejectReason = 2)) = true := by
  decide +kernel

/-- V-D8: 16 µops. -/
theorem test_commission_queues_16 :
    nextHas (exec (.commission 0x250102030405#48) settingState) (fun t =>
      decide (t.uq.length = 16 ∧ t.uq[5]? = some (.dww 0x13#8 0x0405#16))) = true := by decide +kernel

/-- V-H8. -/
theorem test_commission_twice_is_refused :
    nextHas (exec (.commission 0x260102030405#48) { settingState with dur := [(0x10, 1)] }) (fun t =>
      decide (t.rejectReason = 3 ∧ t.uq = [])) = true := by decide +kernel

/-- V-H6. -/
theorem test_set_ts_latch :
    nextHas (exec (.setTsLatch 0x251111120000#48) State.reset) (fun t =>
      decide (t.tsLatch = 0x251111120000#48)) = true := by decide +kernel

/-- V-H7. -/
theorem test_clear_status :
    nextHas (exec .clearStatus { State.reset with cmdReject := true, rejectReason := 2, tickLost := true }) (fun t =>
      decide (t.cmdReject = false ∧ t.rejectReason = 0 ∧ t.tickLost = false)) = true := by decide +kernel

/-- V-X1. -/
theorem test_second_tick_is_lost :
    nextHas (exec .tickEdge { settingState with tickIfg := true }) (fun t =>
      decide (t.tickIfg = true ∧ t.tickLost = true)) = true := by decide +kernel

/-- V-I1, the falling edge; and 60_exceptions R145: a rising pin sets no flag while a press is awaited. -/
theorem test_press_edge_sets_the_flag :
    nextHas (exec (.pinChange .inc false) settingState) (fun t => decide (t.ifg = ⟨false, true, false⟩)) = true := by
  decide +kernel
theorem test_release_edge_sets_nothing :
    nextHas (exec (.pinChange .inc true) { settingState with pin := ⟨true, false, true⟩ }) (fun t =>
      decide (t.ifg = ⟨false, false, false⟩ ∧ t.pin.inc = true)) = true := by decide +kernel

/-- V-X4. -/
theorem test_power_loss_resets :
    nextHas (exec .powerLoss { settling settingState ⟨false, true, false⟩ with dur := [(6, 1)] }) (fun t =>
      decide (t.eng = .idle ∧ t.debActive = false ∧ t.ie = ⟨false, false, false⟩ ∧ t.dur = [(6, 1)])) = true := by
  decide +kernel

/-- V-T2. -/
theorem test_day_borrow :
    nextHas (exec .tickDispatch (downState 1 0)) (fun t =>
      decide (clockOf t = (0, 23, 59, 59) ∧ t.display.primary = #v[0x6D6F, 0x6D6F, 0x5B4F])) = true := by
  decide +kernel

/-- V-T8. -/
theorem test_midpoint_bookkeeping :
    nextHas (exec .tickDispatch (midnight 18262 0 false [(6, 1)])) (fun t =>
      decide (clockOf t = (18263, 0, 0, 0) ∧ t.midf = true ∧ t.display.alternate = #v[0x7D4F, 0x7F5B, 0x0006]
        ∧ t.uq = [.wpu, .dww 3 0, .dww 4 0, .dww 0 1, .dww 1 0, .dww 2 1, .dww 0 0, .wpl])) = true := by
  decide +kernel

/-- V-I5: BTN_ADV acts before BTN_INC. -/
theorem test_both_buttons :
    nextHas (exec .inputEntry { settingState with ifg := ⟨true, true, false⟩ }) (fun t =>
      decide (t.setting.cursor = 2 ∧ t.setting.digit 1 = 1 ∧ t.setting.digit 0 = 0
        ∧ t.debSet = ⟨true, true, false⟩)) = true := by decide +kernel

/-- V-T5 with 90 DAYS, and V-T4's queue. -/
theorem test_trigger_commits :
    nextHas (exec .settleDone { settling settingState ⟨false, false, true⟩ with setting := ninetyDays }) (fun t =>
      decide (t.eng = .counting ∧ clockOf t = (90, 0, 0, 0) ∧ t.uq = [.emit 2] ∧ t.edge.trig = true)) = true := by
  decide +kernel

/-- V-D4: the 17 µops of the launch. -/
theorem test_trigger_launches :
    nextHas (exec .settleDone { settling launchable ⟨false, false, true⟩ with tsLatch := 0x251111120000#48 }) (fun t =>
      decide (t.uq =
        [.wpu, .dww 0x0C 0, .dww 0x0D 0, .dww 0x0E 0, .dww 0x08 1, .dww 0x09 0, .dww 0x0A 0x1112, .dww 0x0B 0x2511,
         .dww 0x08 0, .wpl, .wpu, .dww 0x07 0, .dww 0x05 1, .dww 0x06 1, .dww 0x05 0, .wpl, .emit 2])) = true := by
  decide +kernel

/-- V-D10, one µop of the queue performed. -/
theorem test_uop_step_takes_the_head :
    nextHas (exec .uopStep { settingState with uq := [.wpu, .wpl] }) (fun t =>
      decide (t.wp = false ∧ t.uq = [.wpl])) = true := by decide +kernel

/-- V-D9, and 42_durable R121 unprotected. -/
theorem test_protected_write :
    nextHas (exec (.dww 5#8 1#16) State.reset) (fun t => decide (t.dur = [] ∧ t.wpFault = true)) = true := by
  decide +kernel
theorem test_unprotected_write :
    nextHas (exec (.dww 5#8 1#16) { State.reset with wp := false }) (fun t =>
      decide (t.dur = [(5, 1)] ∧ t.wpFault = false)) = true := by decide +kernel

/-- V-D10. -/
theorem test_wpu : nextHas (exec .wpu State.reset) (fun t => decide (t.wp = false)) = true := by decide +kernel
theorem test_wpl : nextHas (exec .wpl { State.reset with wp := false }) (fun t => decide (t.wp = true)) = true := by
  decide +kernel

/-- 42_durable R124: events are appended in order (V-T4's OUT = [2, 1]). -/
theorem test_emit_appends :
    nextHas (exec (.emit 1#8) { State.reset with out := [2] }) (fun t => decide (t.out = [2, 1])) = true := by
  decide +kernel

/-! ### Calendar, records and the host's view -/

/-- V-T10. -/
theorem test_rtc_days : rtcDays 37 11 6 = 13824 ∧ rtcDays 4 3 1 = 1521 ∧ rtcDays 99 12 31 = 36524 := by decide

/-- V-T11. -/
theorem test_valid_ts : validTs 0x240229000000#48 = true ∧ validTs 0x250229000000#48 = false := by decide
theorem test_valid_ts_bcd : validTs 0x991231235959#48 = true ∧ validTs 0x0001010000A0#48 = false := by decide

/-- V-D1. -/
theorem test_read_durable :
    Memory.readDurable [(0, 1), (1, 7), (3, 5), (4, 1)] .crec = [5, 1]
      ∧ Memory.readDurable [(1, 7), (3, 5), (4, 1)] .crec = [7, 0] := by decide

/-- V-D3: the repair phase. -/
theorem test_repairing_write :
    Memory.recordUops [(0, 1), (1, 2), (2, 1), (3, 1), (4, 1)] .crec [2, 0] =
      [.wpu, .dww 1 1, .dww 2 1, .dww 0 0, .dww 3 1, .dww 4 1, .dww 0 1, .dww 1 2, .dww 2 0, .dww 0 0, .wpl] := by
  decide +kernel

/-- 10_state R42: the STATUS, INPUT and DISPCTL registers right after reset. -/
theorem test_registers_at_reset :
    hostRead State.reset 0x000 = 0 ∧ hostRead State.reset 0x005 = 0x00070007 ∧ hostRead State.reset 0x007 = 0x10
      ∧ hostRead State.reset 0x004 = 0x12 := by decide +kernel

/-- The very next step after withFetchWord runs the placed word. -/
theorem test_with_fetch_word :
    nextHas (step (State.reset.withFetchWord 64 0x0100251111120000)) (fun t => decide (t.eng = .setting)) = true := by
  decide +kernel
theorem test_with_fetch_word_uop :
    nextHas (step (State.reset.withFetchWord 64 0x3200000000000000)) (fun t => decide (t.wp = false)) = true := by
  decide +kernel

/-! ### Witnesses: a state that meets the hypotheses of each statement, and of each of its clauses -/

theorem commandEnabled_of {s : State} (h : s.ownStep = none) : s.CommandEnabled := s.ownStep_none.mp h
theorem not_commandEnabled_of {s : State} {k : InternalStep} (h : s.ownStep = some k) : ¬s.CommandEnabled := by
  rw [← s.ownStep_none, h]; exact fun x => nomatch x
theorem tickEnabled_of {s : State} (h : s.ownStep = some .tickDispatch) : s.TickEnabled := s.ownStep_tickDispatch.mp h
theorem entryEnabled_of {s : State} (h : s.ownStep = some .inputEntry) : s.EntryEnabled := s.ownStep_inputEntry.mp h

/-- A device that fails the self-check: two segments of position 0 share a location. -/
def badMap : SegMap := Vector.ofFn fun p => Vector.ofFn fun k =>
  if p.val = 0 ∧ k.val = 6 then ⟨0, 5⟩ else segAt Config.defaultSegMap p k

def badDevice : State := { State.reset with params := { config := .countdownUnlock, segMap := badMap } }

theorem witness_DecodeOfEncodeIsIdentity :
    (Instr.dww 0x1F#8 0xFFFF#16).wellFormed = true ∧ (Instr.emit 2#8).wellFormed = true
      ∧ (Instr.pinChange .trig true).wellFormed = true := by decide
theorem witness_EncodeOfDecodeIsIdentity : decode 0x310000000018FFFF#64 = .ok (.dww 0x18#8 0xFFFF#16) := by decide

/-- An offered event, an offered command with the port ready, one with a settle in progress, and an offered µop. -/
theorem witness_StepRunsTheOfferedLabel :
    (∃ (s : State) (rest : List Offer), s.offers = .label 0x1100000000000000#64 :: rest ∧ decode 0x1100000000000000#64 = .ok .tickEdge
        ∧ Instr.tickEdge.wellFormed = true ∧ Instr.tickEdge.labelClass = .event)
      ∧ (∃ (s : State) (rest : List Offer), s.offers = .label 0x2400000000000000#64 :: rest ∧ decode 0x2400000000000000#64 = .ok .uopStep
        ∧ Instr.uopStep.labelClass = .internal)
      ∧ (∃ (s : State) (rest : List Offer), s.offers = .label 0x0500000000000000#64 :: rest ∧ decode 0x0500000000000000#64 = .ok .clearStatus
        ∧ Instr.clearStatus.labelClass = .command ∧ s.CommandEnabled)
      ∧ (∃ (s : State) (rest : List Offer), s.offers = .label 0x0500000000000000#64 :: rest ∧ decode 0x0500000000000000#64 = .ok .clearStatus
        ∧ ¬s.CommandEnabled)
      ∧ (∃ (s : State) (rest : List Offer), s.offers = .label 0x3200000000000000#64 :: rest ∧ decode 0x3200000000000000#64 = .ok .wpu
        ∧ Instr.wpu.labelClass = .uop) :=
  ⟨⟨{ State.reset with offers := [.label 0x1100000000000000#64] }, [], rfl, by decide, rfl, rfl⟩,
    ⟨{ State.reset with offers := [.label 0x2400000000000000#64] }, [], rfl, by decide, rfl⟩,
    ⟨{ State.reset with offers := [.label 0x0500000000000000#64] }, [], rfl, by decide, rfl,
      commandEnabled_of (by decide)⟩,
    ⟨{ State.reset with offers := [.label 0x0500000000000000#64], debActive := true }, [], rfl, by decide,
      not_commandEnabled_of (k := .settleDone) (by decide)⟩,
    ⟨{ State.reset with offers := [.label 0x3200000000000000#64] }, [], rfl, by decide, rfl⟩⟩

/-- A DWW label whose address is outside the memory, a reserved word of CLASS 4, and V-H4's reserved word offered as a
label, with the port ready and not. -/
theorem witness_StepRunsTheOfferedLabel_reserved :
    (decode 0x3100000000200001#64 = .ok (.dww 0x20 1) ∧ (Instr.dww 0x20 1).labelClass = .uop)
      ∧ (decode 0x4100000000000000#64 = .error .reservedClass ∧ (0x4100000000000000#64).extractLsb' 60 4 ≠ 0)
      ∧ (decode 0x0600000000000000#64 = .error .reservedOp ∧ (0x0600000000000000#64).extractLsb' 60 4 = 0
        ∧ (∃ s : State, s.offers = [.label 0x0600000000000000#64] ∧ s.CommandEnabled)
        ∧ ∃ s : State, s.offers = [.label 0x0600000000000000#64] ∧ ¬s.CommandEnabled) :=
  ⟨by decide, by decide, by decide, by decide,
    ⟨{ State.reset with offers := [.label 0x0600000000000000#64] }, rfl, commandEnabled_of (by decide)⟩,
    ⟨{ State.reset with offers := [.label 0x0600000000000000#64], uq := [.wpl] }, rfl,
      not_commandEnabled_of (k := .uopStep) (by decide)⟩⟩

/-- A command, V-H4's reserved word, V-H5's CLASS 1 word, and a command that waits. -/
theorem witness_CommandPortRunsOrRejects :
    (∃ (s : State) (rest : List Offer), s.offers = .port 0x0500000000000000#64 :: rest ∧ s.CommandEnabled
        ∧ decode 0x0500000000000000#64 = .ok .clearStatus ∧ Instr.clearStatus.labelClass = .command)
      ∧ (∃ (s : State) (rest : List Offer), s.offers = .port 0x0600000000000000#64 :: rest ∧ s.CommandEnabled
        ∧ ¬∃ i, decode 0x0600000000000000#64 = .ok i ∧ i.labelClass = .command)
      ∧ (∃ (s : State) (rest : List Offer), s.offers = .port 0x1100000000000000#64 :: rest ∧ s.CommandEnabled
        ∧ ¬∃ i, decode 0x1100000000000000#64 = .ok i ∧ i.labelClass = .command)
      ∧ (∃ (s : State) (rest : List Offer), s.offers = .port 0x0500000000000000#64 :: rest ∧ ¬s.CommandEnabled) := by
  refine ⟨⟨{ State.reset with offers := [.port 0x0500000000000000#64] }, [], rfl, commandEnabled_of (by decide),
      by decide, rfl⟩,
    ⟨{ State.reset with offers := [.port 0x0600000000000000#64] }, [], rfl, commandEnabled_of (by decide), ?_⟩,
    ⟨{ State.reset with offers := [.port 0x1100000000000000#64] }, [], rfl, commandEnabled_of (by decide), ?_⟩,
    ⟨{ State.reset with offers := [.port 0x0500000000000000#64], uq := [.wpl] }, [], rfl,
      not_commandEnabled_of (k := .uopStep) (by decide)⟩⟩
  · rintro ⟨i, hi, _⟩
    rw [show decode 0x0600000000000000#64 = .error .reservedOp by decide] at hi
    cases hi
  · rintro ⟨i, hi, hc⟩
    rw [show decode 0x1100000000000000#64 = .ok .tickEdge by decide] at hi
    cases hi
    cases hc

theorem witness_OwnStepFollowsThePriority :
    (∃ s : State, s.offers = [] ∧ s.uq ≠ []) ∧ (∃ s : State, s.offers = [] ∧ s.SettleEnabled)
      ∧ (∃ s : State, s.offers = [] ∧ s.TickEnabled) ∧ (∃ s : State, s.offers = [] ∧ s.EntryEnabled)
      ∧ ∃ s : State, s.offers = [] ∧ s.CommandEnabled :=
  ⟨⟨{ State.reset with uq := [.wpl] }, rfl, by decide⟩, ⟨{ State.reset with debActive := true }, rfl, by decide⟩,
    ⟨{ settingState with tickIfg := true }, rfl, tickEnabled_of (by decide)⟩,
    ⟨{ settingState with ifg := ⟨false, false, true⟩ }, rfl, entryEnabled_of (by decide)⟩,
    ⟨State.reset, rfl, commandEnabled_of (by decide)⟩⟩

theorem witness_HandlersNeverNest :
    State.debActive { State.reset with debActive := true } = true ∧ State.uq { State.reset with uq := [.wpl] } ≠ [] := by
  decide

/-- States that are not busy: no request, and an input's request behind a pending enabled tick. -/
theorem witness_HandlersNeverNest_idle :
    (State.reset.busy = false ∧ State.reset.uq = [] ∧ ¬State.reset.SettleEnabled ∧ ¬State.reset.TickEnabled
        ∧ ¬State.reset.EntryEnabled)
      ∧ ∃ s : State, s.busy = false ∧ (s.ifg.get .inc = true ∧ s.ie.get .inc = true) ∧ ¬s.EntryEnabled
        ∧ ¬s.CommandEnabled :=
  ⟨⟨rfl, rfl, fun h => absurd h.2 (by decide), fun h => absurd h.2.1 (by decide),
      fun ⟨_, _, i, h, _⟩ => by cases i <;> cases h⟩,
    ⟨{ settingState with tickIfg := true, ifg := ⟨false, true, false⟩ }, rfl, ⟨rfl, rfl⟩,
      fun h => h.2.1 ⟨rfl, rfl⟩, fun h => h.2.1 ⟨rfl, rfl⟩⟩⟩

/-- Unlaunched devices of both configurations. -/
theorem witness_BootEntersSetting : ∃ s : State, s.CommandEnabled ∧ s.eng = .idle ∧ layoutOk s.params.segMap = true
    ∧ ¬(s.params.config = .elapsedSinceLaunch ∧ s.dur.flagSet .lflag = true) :=
  ⟨State.reset, commandEnabled_of (by decide), rfl, by decide, by decide⟩
theorem witness_BootEntersSetting_config1 : ∃ s : State, s.CommandEnabled ∧ s.eng = .idle
    ∧ layoutOk s.params.segMap = true ∧ s.params.config = .elapsedSinceLaunch
    ∧ ¬(s.params.config = .elapsedSinceLaunch ∧ s.dur.flagSet .lflag = true) :=
  ⟨{ launchedDevice 0 0 with dur := [] }, commandEnabled_of (by decide), rfl, by decide +kernel, rfl, by decide⟩
/-- The default map leaves bits 7 and 15 of every word without a segment. -/
theorem witness_BootEntersSetting_noSegment : ∀ (w : Fin 3) (p : Fin 6) (x : Fin 7),
    ¬(w.val = (segAt Config.defaultSegMap p x).word ∧ 7 = (segAt Config.defaultSegMap p x).bit)
      ∧ ¬(w.val = (segAt Config.defaultSegMap p x).word ∧ 15 = (segAt Config.defaultSegMap p x).bit) := by decide
theorem witness_BootOfABadLayoutIsErrorOne : ∃ s : State, s.CommandEnabled ∧ s.eng = .idle
    ∧ layoutOk s.params.segMap = false :=
  ⟨badDevice, commandEnabled_of (by decide), rfl, by decide +kernel⟩

/-- A map that fails because one of its words is no word of the display memory (log 8). -/
theorem witness_BootOfABadLayoutIsErrorOne_outside :
    layoutOk (Vector.ofFn fun p => Vector.ofFn fun k =>
      if p.val = 0 ∧ k.val = 6 then ⟨3, 0⟩ else segAt Config.defaultSegMap p k) = false := by decide +kernel

/-- V-T15. -/
theorem witness_BootOfABadClockIsErrorTwo : ∃ (p : Stamp) (s : State), s.CommandEnabled ∧ s.eng = .idle
    ∧ layoutOk s.params.segMap = true ∧ s.params.config = .elapsedSinceLaunch ∧ s.dur.flagSet .lflag = true
    ∧ validTs p = false :=
  ⟨0x250230000000#48, launchedDevice 0 0, commandEnabled_of (by decide), rfl, by decide +kernel, rfl, by decide, by decide⟩

/-- The state part of BootRestoresALaunchedDevice's hypotheses, for any century record. -/
theorem witness_BootRestoresALaunchedDevice :
    (∃ (p : Stamp) (s : State), s.CommandEnabled ∧ s.eng = .idle ∧ layoutOk s.params.segMap = true
        ∧ s.params.config = .elapsedSinceLaunch ∧ s.dur.flagSet .lflag = true ∧ validTs p = true
        ∧ s.dur.readCentury = (0, true) ∧ (stampFields p).yy = 49)
      ∧ (∃ (p : Stamp) (s : State), s.CommandEnabled ∧ s.eng = .idle ∧ s.params.config = .elapsedSinceLaunch
        ∧ s.dur.flagSet .lflag = true ∧ validTs p = true ∧ s.dur.readCentury = (0, false) ∧ (stampFields p).yy = 50) :=
  ⟨⟨0x491231000000#48, launchedDevice 0 1, commandEnabled_of (by decide), rfl, by decide +kernel, rfl, by decide,
      by decide, by decide, by decide⟩,
    ⟨0x500101000003#48, launchedDevice 0 0, commandEnabled_of (by decide), rfl, rfl, by decide, by decide, by decide,
      by decide⟩⟩

/-- A date that needs no correction, with CREC's active flag clear and set. -/
theorem witness_BootRestoresALaunchedDevice_cut :
    (launchedDevice 27 0).dur.read 0x00 = 0 ∧ cutDevice.CommandEnabled ∧ cutDevice.dur.wf = true
      ∧ cutDevice.dur.flagSet .lflag = true ∧ cutDevice.dur.readCentury = (27, false) ∧ cutDevice.dur.read 0x00 ≠ 0
      ∧ validTs 0x371106235959#48 = true ∧ (stampFields 0x371106235959#48).yy = 37 :=
  ⟨by decide, commandEnabled_of (by decide), by decide, by decide, by decide, by decide, by decide, by decide⟩

/-- V-T12: the restored days one short of long-now, and at long-now; neither needs a correction. -/
theorem witness_BootRestoresALaunchedDevice_longNow :
    (launchedDevice 27 0).dur.readCentury = (27, false) ∧ validTs 0x371106235959#48 = true
      ∧ validTs 0x371107000000#48 = true ∧ 27 * 36525 + rtcDays 37 11 6 = 999999
      ∧ 27 * 36525 + rtcDays 37 11 7 = 1000000 := by decide

/-- Every engine state with the command port ready. -/
theorem witness_CommandsAreLegalPerTheTable (e : EngState) : State.CommandEnabled { settingState with eng := e } :=
  commandEnabled_of (by cases e <;> decide)

theorem witness_UnlockDoneReturnsToSetting : ∃ s : State, s.CommandEnabled ∧ s.eng = .unlocking
    ∧ layoutOk s.params.segMap = true :=
  ⟨{ settingState with eng := .unlocking }, commandEnabled_of (by decide), rfl, by decide⟩

theorem witness_CommissionQueuesBothRecords :
    (∃ s : State, s.CommandEnabled ∧ s.eng = .setting ∧ s.dur.flagSet .cflag = false)
      ∧ ∃ s : State, s.CommandEnabled ∧ s.eng = .unlocking ∧ s.dur.flagSet .cflag = true :=
  ⟨⟨settingState, commandEnabled_of (by decide), rfl, by decide⟩,
    ⟨{ settingState with eng := .unlocking, dur := [(0x10, 1)] }, commandEnabled_of (by decide), rfl, by decide⟩⟩

theorem witness_SetTsLatchWritesTheLatch : State.reset.CommandEnabled := commandEnabled_of (by decide)
theorem witness_ClearStatusClearsStickyFlags : State.CommandEnabled { State.reset with cmdReject := true } :=
  commandEnabled_of (by decide)

theorem witness_TickEdgeSetsTheFlag :
    State.reset.tickIfg = false ∧ (downState 0 5).tickIfg = true := by decide

/-- The same level; the awaited falling edge; a rising edge while a press is awaited. -/
theorem witness_PinChangeLatchesTheAwaitedEdge :
    State.reset.pin.get .adv = true ∧ State.reset.pin.get .trig ≠ false ∧ State.reset.edge.get .trig = false
      ∧ (settling settingState ⟨false, true, false⟩).pin.get .inc ≠ true
      ∧ (settling settingState ⟨false, true, false⟩).edge.get .inc ≠ true := by decide

/-- Seconds left, the last second (V-T3), and a day to borrow (V-T2). -/
theorem witness_CountdownTickTakesOneSecond :
    ∀ x ∈ [(0, 5), (0, 1), (1, 0)], ∃ s : State, s = downState x.1 x.2 ∧ s.TickEnabled ∧ s.eng = .counting
      ∧ s.mode = .down ∧ s.TimeLegal ∧ 0 < s.totalSeconds := by
  intro x hx
  refine ⟨_, rfl, ?_⟩
  simp only [List.mem_cons, List.not_mem_nil, or_false] at hx
  rcases hx with rfl | rfl | rfl <;>
    exact ⟨tickEnabled_of (by decide), rfl, rfl, by decide, by decide⟩

theorem witness_CountdownOfZeroUnlocks : ∃ s : State, s.TickEnabled ∧ s.eng = .counting ∧ s.mode = .down
    ∧ s.totalSeconds = 0 :=
  ⟨downState 0 0, tickEnabled_of (by decide), rfl, rfl, by decide⟩
theorem witness_TickOutsideCountingOnlyClears : ∃ s : State, s.TickEnabled ∧ s.eng ≠ .counting :=
  ⟨{ settingState with tickIfg := true }, tickEnabled_of (by decide), by decide⟩

/-- V-T7 with each page, and day zero; seconds that carry and seconds that do not. -/
theorem witness_CountUpTickAddsOneSecond (pg : Page) :
    (∃ s : State, s.TickEnabled ∧ s.eng = .counting ∧ s.mode = .up ∧ s.TimeLegal
        ∧ ¬(s.sec = 59 ∧ s.min = 59 ∧ s.hr = 23) ∧ s.days ≠ 0 ∧ s.page = pg ∧ s.sec.toNat ≠ 59)
      ∧ ∃ s : State, s.TickEnabled ∧ s.eng = .counting ∧ s.mode = .up ∧ s.TimeLegal
        ∧ ¬(s.sec = 59 ∧ s.min = 59 ∧ s.hr = 23) ∧ s.days = 0 ∧ s.sec.toNat = 59 :=
  ⟨⟨{ midnight 1 0 false [] with sec := 0, page := pg }, tickEnabled_of (by cases pg <;> decide), rfl, rfl,
      by cases pg <;> decide, by cases pg <;> decide, by cases pg <;> decide, rfl, by cases pg <;> decide⟩,
    ⟨{ midnight 0 0 false [] with hr := 22 }, tickEnabled_of (by decide), rfl, rfl, by decide, by decide, rfl, by decide⟩⟩

/-- Rollovers to day 18262 (nothing booked), 18263 (midpoint), 36525 (century) and 999999. -/
theorem witness_DayRolloverBooksTheCentury :
    ∀ n ∈ [18261, 18262, 36524, 999998], ∃ s : State, s.TickEnabled ∧ s.eng = .counting ∧ s.mode = .up
      ∧ (s.sec = 59 ∧ s.min = 59 ∧ s.hr = 23) ∧ s.days.toNat = n ∧ s.days.toNat + 1 < 1000000
      ∧ layoutOk s.params.segMap = true ∧ s.cent = 0 := by
  intro n hn
  refine ⟨midnight (BitVec.ofNat 32 n) 0 false [], ?_⟩
  simp only [List.mem_cons, List.not_mem_nil, or_false] at hn
  rcases hn with rfl | rfl | rfl | rfl <;>
    exact ⟨tickEnabled_of (by decide), rfl, rfl, by decide, by decide, by decide, by decide +kernel, rfl⟩

/-- V-T6's step and each other page. -/
theorem witness_DayRolloverBooksTheCentury_pages (pg : Page) : ∃ s : State, s.TickEnabled ∧ s.eng = .counting
    ∧ s.mode = .up ∧ (s.sec = 59 ∧ s.min = 59 ∧ s.hr = 23) ∧ s.days.toNat + 1 < 1000000
    ∧ layoutOk s.params.segMap = true ∧ s.page = pg :=
  ⟨{ midnight 0 0 false [] with page := pg }, tickEnabled_of (by cases pg <;> decide), rfl, rfl,
    by cases pg <;> decide, by cases pg <;> decide, test_default_layout_ok, rfl⟩

theorem witness_LongNowEntersTerminal : ∃ s : State, s.TickEnabled ∧ s.eng = .counting ∧ s.mode = .up
    ∧ (s.sec = 59 ∧ s.min = 59 ∧ s.hr = 23) ∧ s.days = 999999 ∧ layoutOk s.params.segMap = true :=
  ⟨midnight 999999 27 false [], tickEnabled_of (by decide), rfl, rfl, by decide, rfl, by decide +kernel⟩

/-- The last day of the first half and the first of the second. -/
theorem witness_MidpointIsTheYearTest : validTs 0x491231235959#48 = true ∧ (stampFields 0x491231235959#48).yy = 49
    ∧ validTs 0x500101000000#48 = true ∧ (stampFields 0x500101000000#48).yy = 50 := by decide

/-- A leap February, its last day excluded. -/
theorem witness_RtcDaysCountsCalendarDays : (28 : Nat) < daysInMonth 0 2 ∧ ¬((29 : Nat) < daysInMonth 0 2) := by decide

theorem witness_EntryOutsideSettingOnlySnapshots : ∃ s : State, s.EntryEnabled ∧ s.eng ≠ .setting :=
  ⟨{ settingState with eng := .terminal, ifg := ⟨true, false, false⟩ }, entryEnabled_of (by decide), by decide⟩

/-- Both buttons act; only the trigger requests, so none acts. -/
theorem witness_ButtonsActAtEntry :
    ∀ f ∈ [InputBits.mk true true false, ⟨false, false, true⟩], ∃ s : State, s.EntryEnabled ∧ s.eng = .setting
      ∧ layoutOk s.params.segMap = true ∧ s.ifg = f ∧ s.armed = ⟨true, true, true⟩ := by
  intro f hf
  refine ⟨{ settingState with ifg := f }, ?_⟩
  simp only [List.mem_cons, List.not_mem_nil, or_false] at hf
  rcases hf with rfl | rfl <;> exact ⟨entryEnabled_of (by decide), rfl, by decide, rfl, rfl⟩

/-- A setting value with a unit, a hundreds digit, lower digits and a cursor. -/
def valueOf (u : TimeUnit) (d2 d0 : BitVec 4) (c : Fin 6) : Setting :=
  { unit := u, dig := #v[d0, 0, d2, 0, 0], cursor := c }

/-- Every cursor position, under DAYS with a digit 9 and under YEARS with hundreds digit 0 or 1. -/
theorem witness_IncrementStepsDigitOrUnit (c : Fin 6) :
    (valueOf .days 9 9 c).DigitsLegal ∧ (valueOf .days 9 9 c).YearsCapped ∧ (valueOf .years 1 0 c).DigitsLegal
      ∧ (valueOf .years 1 0 c).YearsCapped ∧ (valueOf .years 0 9 c).DigitsLegal ∧ (valueOf .years 0 9 c).YearsCapped := by
  revert c; decide
theorem witness_YearsCapIsKept : (valueOf .years 1 0 0).DigitsLegal ∧ (valueOf .years 1 0 0).YearsCapped
    ∧ (valueOf .years 1 0 0).unit = .years ∧ (valueOf .years 1 0 0).value = 100 := by decide

/-- A settle of every input, with each awaited edge and each pin level, the trigger enabled and disabled. -/
theorem witness_SettleFlipsConfirmedInputs (set edge pin ie : InputBits) :
    State.SettleEnabled { settingState with debActive := true, debSet := set, edge := edge, pin := pin, ie := ie } :=
  ⟨rfl, rfl⟩

/-- A button's settle in SETTING, and the trigger's outside it. -/
theorem witness_SettleWithoutTriggerIsQuiet :
    ∀ s ∈ [settling settingState ⟨true, true, false⟩, settling { settingState with eng := .error } ⟨false, false, true⟩],
      s.SettleEnabled ∧ ¬(s.debSet.trig = true ∧ s.edge.trig = false ∧ s.pin.trig = false ∧ s.armed.trig = true
        ∧ s.eng = .setting) := by
  intro s hs
  simp only [List.mem_cons, List.not_mem_nil, or_false] at hs
  rcases hs with rfl | rfl <;> exact ⟨⟨rfl, rfl⟩, by decide⟩

theorem witness_CommitSetsTheDuration : ∃ s : State, s.SettleEnabled ∧ s.debSet.trig = true ∧ s.edge.trig = false
    ∧ s.pin.trig = false ∧ s.armed.trig = true ∧ s.eng = .setting ∧ s.params.config = .countdownUnlock
    ∧ layoutOk s.params.segMap = true ∧ s.cache = cacheWords s.params.segMap :=
  ⟨settling settingState ⟨false, false, true⟩, ⟨rfl, rfl⟩, rfl, rfl, rfl, rfl, rfl, rfl, by decide, rfl⟩
theorem witness_CommitSetsTheDuration_units (u : TimeUnit) : ∃ s : State, s.SettleEnabled ∧ s.debSet.trig = true
    ∧ s.edge.trig = false ∧ s.pin.trig = false ∧ s.armed.trig = true ∧ s.eng = .setting
    ∧ s.params.config = .countdownUnlock ∧ layoutOk s.params.segMap = true
    ∧ s.cache = cacheWords s.params.segMap ∧ s.setting.unit = u :=
  ⟨settling { settingState with setting := { ninetyDays with unit := u } } ⟨false, false, true⟩, ⟨rfl, rfl⟩, rfl, rfl,
    rfl, rfl, rfl, rfl, test_default_layout_ok, rfl, rfl⟩
theorem witness_LaunchIsOneShot : ∃ s : State, s.SettleEnabled ∧ s.debSet.trig = true ∧ s.edge.trig = false
    ∧ s.pin.trig = false ∧ s.armed.trig = true ∧ s.eng = .setting ∧ s.params.config = .elapsedSinceLaunch
    ∧ layoutOk s.params.segMap = true ∧ s.cache = cacheWords s.params.segMap :=
  ⟨settling launchable ⟨false, false, true⟩, ⟨rfl, rfl⟩, rfl, rfl, rfl, rfl, rfl, rfl, by decide, rfl⟩

/-- V-I2's press, and its release. -/
theorem witness_BouncesDoNotCount :
    ∀ s ∈ [settling settingState ⟨false, true, false⟩,
        { settling settingState ⟨false, true, false⟩ with edge := ⟨false, true, false⟩, pin := ⟨false, true, false⟩ }],
      s.SettleEnabled ∧ s.debSet.get .inc = true ∧ s.pin.get .inc = s.edge.get .inc := by
  intro s hs
  simp only [List.mem_cons, List.not_mem_nil, or_false] at hs
  rcases hs with rfl | rfl <;> exact ⟨⟨rfl, rfl⟩, rfl, rfl⟩

theorem witness_UopStepPerformsTheHead :
    State.uq { State.reset with uq := [.wpu, .wpl] } = [.wpu, .wpl] := by decide
theorem witness_UopsOutsideTheirRulesStop :
    State.reset.uq = [] ∧ 32 ≤ (32#8).toNat ∧ ¬((3#8 : BitVec 8) = 1 ∨ (3#8 : BitVec 8) = 2) := by decide
/-- Each head. -/
theorem witness_UopStepCompletes : ∀ u ∈ [Uop.dww 0x1F 1, .wpu, .wpl, .emit 2],
    State.uq { State.reset with uq := [u, .wpl] } = [u, .wpl] ∧ u.wellFormed = true := by decide

/-- The last address, protected and unprotected. -/
theorem witness_DwwWritesOneWord :
    (31#8).toNat < 32 ∧ State.reset.wp = true ∧ State.wp { State.reset with wp := false } = false
      ∧ Memory.wf (State.dur { State.reset with dur := [(5, 1)], wp := false }) = true := by decide
theorem witness_WpuWplEmitResults : (2#8 : BitVec 8) = 1 ∨ (2#8 : BitVec 8) = 2 := by decide

theorem witness_RecordWriteSequence : ([2, 0] : List Word).length = Record.crec.size
    ∧ Memory.read [] Record.crec.base = 0 ∧ Memory.read [(0, 1)] Record.crec.base ≠ 0 := by decide
theorem witness_RecordWriteSequence_clean : Memory.read [(6, 1)] 0x05 = 0 := by decide
/-- A cut write, whose repair is 5 µops. -/
theorem witness_RecordWriteSequence_repair : cutDevice.uq = [] ∧ cutDevice.dur.wf = true
    ∧ cutDevice.dur.read 0x00 ≠ 0 ∧ (cutDevice.repairRecord .crec).uq.length = 5 := by decide +kernel

/-- V-D6's start: the active flag set, so that the write repairs first, behind another record's µop. -/
theorem witness_CrashSafety : ∃ s : State, s.dur.wf = true ∧ ([2, 0] : List Word).length = Record.crec.size
    ∧ s.uq = [.wpu, .dww 0x07 1] ∧ (∀ u ∈ s.uq, u.wellFormed = true ∧ uopWrites .crec u = false)
    ∧ (s.dur.recordUops .crec [2, 0]).length = 11 :=
  ⟨{ State.reset with dur := [(0, 1), (1, 2), (2, 1), (3, 1), (4, 1)], uq := [.wpu, .dww 0x07 1] },
    by decide, rfl, rfl, by decide, by decide +kernel⟩

theorem witness_exec_next : ∃ t, exec .tickEdge State.reset = .next t := ⟨_, rfl⟩
theorem witness_QueueGrowthIsBounded : ∃ t, exec (.commission 0) settingState = .next t ∧ t.uq.length = 16 :=
  ⟨_, rfl, by decide +kernel⟩

theorem witness_CacheWordsShowTheirValue : layoutOk Config.defaultSegMap = true ∧ 59 < 60 ∧ 23 < 24 := by decide
theorem witness_WriteGlyphShowsItsGlyph : layoutOk Config.defaultSegMap = true ∧ (5 : Fin 6) ≠ 0
    ∧ Buffer.primary ≠ Buffer.alternate := by decide
theorem witness_WriteGlyphShowsItsGlyph_shows : Display.Shows Config.defaultSegMap Display.reset .primary 0 0 := by
  decide
theorem witness_WriteGlyphShowsItsGlyph_rest :
    ∀ x : Fin 7, ¬(2 = (segAt Config.defaultSegMap 4 x).word ∧ 15 = (segAt Config.defaultSegMap 4 x).bit) := by decide
theorem witness_FieldWordsAreDistinct : layoutOk Config.defaultSegMap = true := by decide

/-- Each blink mode, lit and dark. -/
theorem witness_VisibleImageFollowsTheBlinkMode (b : BlinkMode) :
    Display.lcdOn { Display.reset with lcdOn := true, blink := b } = true
      ∧ Display.blink { Display.reset with lcdOn := true, blink := b } = b ∧ Display.reset.lcdOn = false :=
  ⟨rfl, rfl, rfl⟩

/-- Each end of each gap of the map is an unlisted address. -/
theorem witness_RegisterMapFields :
    ∀ a ∈ [0x00B, 0x00F, 0x013, 0x01F, 0x023, 0x03F, 0x060, 0x0FF, 0x13C, 0x13F, 0x17C, 0x17F, 0x198],
      0x00A < a ∧ ¬(0x010 ≤ a ∧ a ≤ 0x012) ∧ ¬(0x020 ≤ a ∧ a ≤ 0x022) ∧ ¬(0x040 ≤ a ∧ a ≤ 0x05F)
        ∧ ¬(0x100 ≤ a ∧ a ≤ 0x13B) ∧ ¬(0x140 ≤ a ∧ a ≤ 0x17B) ∧ ¬(0x180 ≤ a ∧ a ≤ 0x197) := by decide

/-- A state past reset with the invariant: SETTING with a µop queued while a record's write is under way. -/
def writing : State := { settingState with wp := false, uq := [.dww 0x05 1, .wpl] }

theorem witness_Inv : writing.Inv where
  time := by decide
  days := by decide
  digits := by decide
  years := by decide
  durable := ⟨rfl, fun _ _ => rfl, by decide, by decide⟩
  settle := by decide
  idle := by decide
  cache := ⟨fun _ => rfl, fun _ => ⟨by decide, rfl⟩⟩
  oneShot := by decide
  shown := by decide

theorem witness_StepKeepsTheInvariant : writing.Inv ∧ ∃ t, step writing = .next t ∧ t.dur = [(5, 1)] :=
  ⟨witness_Inv, _, rfl, by decide +kernel⟩
theorem witness_StepKeepsMemoryCanonical : writing.dur.wf = true ∧ ∃ t, step writing = .next t := ⟨rfl, _, rfl⟩
theorem witness_ProtectedWritesAreUnreachable : writing.Inv ∧ writing.wpFault = false ∧ ∃ t, step writing = .next t :=
  ⟨witness_Inv, rfl, _, rfl⟩
theorem witness_QueuedUopsAlwaysRun : writing.Inv ∧ writing.uq ≠ [] := ⟨witness_Inv, by decide⟩
theorem witness_EngineMovesOnlyByTheTable : ∃ t, exec .unlockDone { settingState with eng := .unlocking } = .next t
    ∧ t.eng = .setting := ⟨_, rfl, rfl⟩

/-- A tick in TERMINAL, a refused BOOT in ERROR, and UOP_STEP of a repair queued by a restore into TERMINAL. -/
theorem witness_TerminalAndErrorAreAbsorbing :
    (∃ t, exec .tickDispatch { settingState with eng := .terminal, tickIfg := true } = .next t)
      ∧ (∃ t, exec (.boot 0) { settingState with eng := .error } = .next t)
      ∧ (∃ t, exec .uopStep { settingState with eng := .terminal, uq := [.wpu, .wpl] } = .next t)
      ∧ Instr.tickDispatch ≠ .powerLoss ∧ Instr.tickDispatch ≠ .uopStep ∧ Instr.tickDispatch.labelClass ≠ .uop :=
  ⟨⟨_, rfl⟩, ⟨_, rfl⟩, ⟨_, rfl⟩, by decide, by decide, by decide⟩

/-- The step that unlocks, and one that does not. -/
theorem witness_UnlockIsEmittedOncePerCountdown :
    (∃ t, step (downState 0 0) = .next t ∧ t.powerUps = (downState 0 0).powerUps ∧ t.eng = .unlocking)
      ∧ ∃ t, step writing = .next t ∧ t.powerUps = writing.powerUps ∧ t.eng ≠ .unlocking :=
  ⟨⟨_, rfl, rfl, rfl⟩, ⟨_, rfl, rfl, by decide +kernel⟩⟩
/-- A label that is its own µop's, and UOP_STEP, which is its head's. -/
theorem witness_RegistersHaveOnlyTheirWriters :
    (∃ t, exec (.emit 1) State.reset = .next t) ∧ (∃ t, exec .uopStep writing = .next t)
      ∧ performed .uopStep writing = .dww 0x05 1 ∧ performed .tickEdge writing = .tickEdge :=
  ⟨⟨_, rfl⟩, ⟨_, rfl⟩, rfl, rfl⟩

end Sys2Proof.Tests
end

section
/-! Reset: the manufacture state, and the invariant in it (10_state R44, R45, 70_reset_and_hazards R163). -/

namespace Sys2Proof.Machine

/-- Settles O60, register by register. -/
theorem resetIsTheManufactureState : Obligations.ResetIsTheManufactureState := by
  have bits : ∀ i, State.reset.edge.get i = false ∧ State.reset.armed.get i = true
      ∧ State.reset.ifg.get i = false ∧ State.reset.ie.get i = false := by
    intro i; cases i <;> exact ⟨rfl, rfl, rfl, rfl⟩
  have snapshot : ∀ i, State.reset.debSet.get i = false := by intro i; cases i <;> rfl
  exact ⟨rfl, rfl, rfl, rfl, rfl, rfl, rfl, rfl, rfl, rfl, rfl, by decide, rfl, bits, rfl, snapshot, rfl, rfl, rfl, rfl,
    rfl, rfl, rfl, ⟨rfl, rfl, rfl⟩, rfl, rfl, rfl, rfl, fun _ => rfl⟩

/-- Settles O51, clause by clause: IDLE leaves the clauses about the running engine nothing to say. -/
theorem invariantHoldsAtReset : Obligations.InvariantHoldsAtReset where
  time := ⟨by decide, by decide, by decide⟩
  days := by rintro ⟨he, -⟩; cases he
  digits := by decide
  years := nofun
  durable := ⟨rfl, fun _ _ => rfl, List.forall_mem_nil _, rfl⟩
  settle := fun _ => rfl
  idle := fun _ => ⟨rfl, rfl⟩
  cache := ⟨by decide, nofun⟩
  oneShot := by rintro ⟨he, -⟩; cases he
  shown := by rintro (he | he) <;> cases he

end Sys2Proof.Machine
end

section
/-! The host register space: the fields of each register, bit by bit (10_state R42, R43). -/

namespace Sys2Proof.Machine

/-! ### The packed registers: a field of a concatenation is found by walking it from the right -/

open BitVec (extractLsb'_setWidth_of_le extractLsb'_append_eq_of_le extractLsb'_append_eq_right getLsbD_append
  getLsbD_of_ge extractLsb'_eq_self)

theorem bit_getLsbD (b : Bool) : (bit b).getLsbD 0 = b := by cases b <;> rfl

theorem CountMode.code_getLsbD (m : CountMode) : m.code.getLsbD 0 = decide (m = .up) := by cases m <;> rfl

theorem Buffer.code_getLsbD (b : Buffer) : b.code.getLsbD 0 = decide (b = .alternate) := by cases b <;> rfl

theorem configCode_getLsbD (c : Deployment) : (configCode c).getLsbD 0 = decide (c = .elapsedSinceLaunch) := by
  cases c <;> rfl

theorem getLsbD_setWidth_low {n v i : Nat} {x : BitVec n} (h : i < v) : (x.setWidth v).getLsbD i = x.getLsbD i := by
  simp [h]

theorem getLsbD_append_low {n m i : Nat} {x : BitVec n} {y : BitVec m} (h : i < m) :
    (x ++ y).getLsbD i = y.getLsbD i := by rw [getLsbD_append, if_pos h]

theorem getLsbD_append_high {n m i : Nat} {x : BitVec n} {y : BitVec m} (h : m ≤ i) :
    (x ++ y).getLsbD i = x.getLsbD (i - m) := by rw [getLsbD_append, if_neg (by omega)]

/-- Above its highest field a register shows 0. -/
theorem extractLsb'_above {w lo len : Nat} {x : BitVec w} (h : w ≤ lo) : x.extractLsb' lo len = 0 :=
  extract_eq _ _ _ _ fun i _ => by rw [getLsbD_of_ge x (lo + i) (by omega), BitVec.ofNat_eq_ofNat, BitVec.getLsbD_zero]

/-- A bit of a field, by the field's place. -/
theorem getLsbD_of_field {n lo len k : Nat} {x : BitVec n} {y : BitVec len} (h : x.extractLsb' lo len = y)
    (hk : k < len) : x.getLsbD (lo + k) = y.getLsbD k := by
  rw [← h, BitVec.getLsbD_extractLsb', decide_eq_true hk, Bool.true_and]

/-- SETTING shows DIG[k] at bits 8 + 4k to 11 + 4k. -/
theorem hostRead_setting_digit (s : State) (k : Fin 5) :
    (hostRead s 0x004).extractLsb' (8 + 4 * k.val) 4 = s.setting.dig.get k := by
  have digits : (settingReg s).extractLsb' 8 4 = s.setting.dig.get 0
      ∧ (settingReg s).extractLsb' 12 4 = s.setting.dig.get 1 ∧ (settingReg s).extractLsb' 16 4 = s.setting.dig.get 2
      ∧ (settingReg s).extractLsb' 20 4 = s.setting.dig.get 3
      ∧ (settingReg s).extractLsb' 24 4 = s.setting.dig.get 4 := by
    simp (disch := decide) only [settingReg, extractLsb'_setWidth_of_le, extractLsb'_append_eq_of_le,
      extractLsb'_append_eq_right, extractLsb'_eq_self, Nat.reduceSub, and_self]
  obtain ⟨h0, h1, h2, h3, h4⟩ := digits
  rw [hostRead_setting]
  fin_cases k
  exacts [h0, h1, h2, h3, h4]

/-- The place of input i in a group of three bits. -/
theorem InputBits.code_getLsbD (b : InputBits) :
    b.code.getLsbD 0 = b.adv ∧ b.code.getLsbD 1 = b.inc ∧ b.code.getLsbD 2 = b.trig := by
  simp (disch := decide) only [InputBits.code, getLsbD_append_low, getLsbD_append_high, Nat.reduceSub, bit_getLsbD,
    and_self]

/-- INPUT's groups of three bits. -/
theorem hostRead_input_groups (s : State) :
    (hostRead s 0x005).extractLsb' 0 3 = s.pin.code ∧ (hostRead s 0x005).extractLsb' 4 3 = s.ifg.code
      ∧ (hostRead s 0x005).extractLsb' 8 3 = s.ie.code ∧ (hostRead s 0x005).extractLsb' 12 3 = s.edge.code
      ∧ (hostRead s 0x005).extractLsb' 16 3 = s.armed.code ∧ (hostRead s 0x005).extractLsb' 24 3 = s.debSet.code := by
  rw [hostRead_input]
  simp (disch := decide) only [inputReg, extractLsb'_setWidth_of_le, extractLsb'_append_eq_of_le,
    extractLsb'_append_eq_right, extractLsb'_eq_self, Nat.reduceSub, and_self]

/-- A group of three bits shows input i's bit at place i. -/
theorem getLsbD_of_group {x : BitVec 32} {lo : Nat} {b : InputBits} (h : x.extractLsb' lo 3 = b.code) {i : Input}
    {n : Nat} (hn : i = .adv ∧ n = 0 ∨ i = .inc ∧ n = 1 ∨ i = .trig ∧ n = 2) : x.getLsbD (lo + n) = b.get i := by
  obtain ⟨ha, hi, ht⟩ := b.code_getLsbD
  rcases hn with ⟨rfl, rfl⟩ | ⟨rfl, rfl⟩ | ⟨rfl, rfl⟩
  · rw [getLsbD_of_field h (by decide), ha]; rfl
  · rw [getLsbD_of_field h (by decide), hi]; rfl
  · rw [getLsbD_of_field h (by decide), ht]; rfl

theorem State.busy_iff (s : State) : s.busy = true ↔ s.uq ≠ [] ∨ s.debActive = true := by
  simp [State.busy]

/-- Settles O50. The bits of a packed register are found by walking its concatenation; the memories and the unlisted
addresses by the bounds of their regions. -/
theorem registerMapFields : Obligations.RegisterMapFields := by
  refine ⟨⟨rfl, rfl, rfl, rfl⟩, fun s => ⟨?status, ?time, rfl, ?century,
    ⟨?unit, ?unitGap, ?cursor, ?cursorGap, hostRead_setting_digit s, ?settingTop⟩,
    ⟨fun i n hn => ?groups, ?debActive, ?inputGaps, ?inputTop⟩, ?tick, ?dispCtl, rfl, rfl, ?uqLen,
    fun w hw => ⟨?primary, ?alternate⟩, fun a ha => ?durable, fun v hv => ⟨?sec, ?min⟩, fun v hv => ?hr,
    fun a _ _ _ _ _ _ _ => ?unlisted⟩⟩
  case status | time | century | unit | unitGap | cursor | cursorGap | settingTop | debActive | inputGaps | inputTop
      | tick | dispCtl =>
    simp (disch := decide) only [hostRead_status, hostRead_time, hostRead_century, hostRead_setting, hostRead_input,
      hostRead_tick, hostRead_dispCtl, statusReg, timeReg, centuryReg, settingReg, inputReg, tickReg, dispCtlReg,
      extractLsb'_setWidth_of_le, extractLsb'_append_eq_of_le, extractLsb'_append_eq_right, extractLsb'_eq_self,
      extractLsb'_above, getLsbD_setWidth_low, getLsbD_append_low, getLsbD_append_high, Nat.reduceSub, bit_getLsbD,
      CountMode.code_getLsbD, Buffer.code_getLsbD, configCode_getLsbD, State.busy_iff, List.forall_mem_cons,
      List.not_mem_nil, false_imp_iff, implies_true, BitVec.getLsbD_zero, BitVec.ofNat_eq_ofNat, and_self]
  case groups =>
    obtain ⟨hpin, hifg, hie, hedge, harmed, hdeb⟩ := hostRead_input_groups s
    refine ⟨?_, getLsbD_of_group hifg hn, getLsbD_of_group hie hn, getLsbD_of_group hedge hn,
      getLsbD_of_group harmed hn, getLsbD_of_group hdeb hn⟩
    simpa only [Nat.zero_add] using getLsbD_of_group hpin hn
  case uqLen =>
    rw [hostRead_uqLen, BitVec.toNat_setWidth, BitVec.toNat_ofNat]
    omega
  case primary | alternate | durable | sec | min | hr | unlisted =>
    simp (disch := omega) only [hostRead, Config.dispWords, Config.durWords, if_neg, if_pos, Nat.add_sub_cancel_left]

end Sys2Proof.Machine
end

section
/-! What the handlers queue: each list's length and legality, and how far UQ can grow in one step (10_state R38). -/

namespace Sys2Proof.Machine

/-! ### The lists a record's write and its repair queue (42_durable R117) -/

@[simp] theorem Record.writePrimary_length (r : Record) (vs : List Word) : (r.writePrimary vs).length = vs.length := by
  simp [Record.writePrimary]

@[simp] theorem Record.writeBackup_length (r : Record) (vs : List Word) : (r.writeBackup vs).length = vs.length := by
  simp [Record.writeBackup]

theorem Memory.repairUops_length_le (m : Memory) (r : Record) : (m.repairUops r).length ≤ r.size + 1 := by
  unfold Memory.repairUops
  split <;> simp

theorem Memory.recordUops_length_le (m : Memory) (r : Record) {n : List Word} (hn : n.length = r.size) :
    (m.recordUops r n).length ≤ 3 * r.size + 5 := by
  have hr := m.repairUops_length_le r
  simp only [Memory.recordUops, List.length_append, List.length_singleton, Record.writeBackup_length,
    Record.writePrimary_length, Memory.readDurable_length, hn]
  omega

theorem Memory.repairList_length_le (m : Memory) (r : Record) : (m.repairList r).length ≤ r.size + 3 := by
  have hr := m.repairUops_length_le r
  rcases repairList_cases m r with ⟨-, e⟩ | ⟨-, e⟩ <;> rw [e]
  · exact Nat.zero_le _
  · simp only [List.length_cons, List.length_append, List.length_nil]
    omega

theorem stampWords_length_lts (p : Stamp) : (stampWords p).length = Record.size .lts := rfl

theorem stampWords_length_cts (p : Stamp) : (stampWords p).length = Record.size .cts := rfl

/-! ### Lists that a handler may queue (42_durable R119) -/

/-- From a protected queue end, every µop is legal and the list ends protected: what the invariant asks of a queued
list. -/
structure Queueable (us : List Uop) : Prop where
  legal : ∀ u ∈ us, uopLegal u = true
  closed : bracketed true us = true

/-- No µop of the list writes record r. -/
def Spares (r : Record) (us : List Uop) : Prop := ∀ u ∈ us, uopWrites r u = false

theorem Queueable.nil : Queueable [] := ⟨List.forall_mem_nil _, rfl⟩

theorem Queueable.emit {e : BitVec 8} (h : eventCodeOk e = true) : Queueable [.emit e] :=
  ⟨by simpa [uopLegal] using h, rfl⟩

theorem Queueable.recordUops (m : Memory) {r : Record} {n : List Word} (hn : n.length = r.size) :
    Queueable (m.recordUops r n) :=
  ⟨uopLegal_recordUops hn, by simpa [bracketed] using bracketed_recordUops (m := m) hn true []⟩

theorem Queueable.repairList (m : Memory) (r : Record) : Queueable (m.repairList r) :=
  ⟨uopLegal_repairList m r, by simpa [bracketed] using bracketed_repairList m r []⟩

/-- A write of one record is no write of another. -/
theorem uopWrites_other {r r' : Record} (h : r ≠ r') {u : Uop} (hu : uopWrites r u = true) : uopWrites r' u = false := by
  cases u with
  | dww a v =>
    have hd := Record.disjoint h
    simp only [uopWrites, Bool.and_eq_true, decide_eq_true_eq] at hu
    simp only [uopWrites, Bool.and_eq_false_iff, decide_eq_false_iff_not]
    omega
  | wpu => rfl
  | wpl => rfl
  | emit e => rfl

theorem Spares.recordUops (m : Memory) {r r' : Record} (h : r ≠ r') {n : List Word} (hn : n.length = r.size) :
    Spares r' (m.recordUops r n) := by
  intro u hu
  rcases mem_recordUops hn hu with rfl | rfl | ⟨-, hw⟩
  · rfl
  · rfl
  · exact uopWrites_other h hw

theorem Spares.repairList (m : Memory) {r r' : Record} (h : r ≠ r') : Spares r' (m.repairList r) := by
  intro u hu
  rcases repairList_cases m r with ⟨-, e⟩ | ⟨-, e⟩ <;> rw [e] at hu
  · cases hu
  · simp only [List.mem_cons, List.mem_append, List.not_mem_nil, or_false] at hu
    rcases hu with rfl | hu | rfl
    · rfl
    · exact uopWrites_other h (mem_repairUops hu).2
    · rfl

/-! ### The century's list (41_engine R103, R111) -/

/-- What the century bookkeeping and the boot restore queue: nothing, the repair of CREC, or its write. -/
def CenturyUops (m : Memory) (us : List Uop) : Prop :=
  us = [] ∨ us = m.repairList .crec ∨ ∃ c f, us = m.recordUops .crec (centuryWords c f)

theorem CenturyUops.length_le {m : Memory} {us : List Uop} (h : CenturyUops m us) : us.length ≤ 11 := by
  rcases h with rfl | rfl | ⟨c, f, rfl⟩
  · exact Nat.zero_le _
  · exact (m.repairList_length_le .crec).trans (by decide)
  · exact m.recordUops_length_le .crec rfl

theorem CenturyUops.queueable {m : Memory} {us : List Uop} (h : CenturyUops m us) : Queueable us := by
  rcases h with rfl | rfl | ⟨c, f, rfl⟩
  · exact .nil
  · exact .repairList m .crec
  · exact .recordUops m rfl

theorem CenturyUops.spares {m : Memory} {us : List Uop} (h : CenturyUops m us) : Spares .lflag us := by
  rcases h with rfl | rfl | ⟨c, f, rfl⟩
  · exact List.forall_mem_nil _
  · exact .repairList m (by decide)
  · exact .recordUops m (by decide) rfl

theorem centBook_queues (s : State) : ∃ c f us, CenturyUops s.dur us
    ∧ centBook s = State.enqueue { s with cent := c, midf := f } us := by
  rcases centBook_cases s with ⟨-, e⟩ | ⟨-, -, -, e⟩ | ⟨-, -, e⟩ <;> rw [e]
  · exact ⟨_, _, _, .inr (.inr ⟨_, _, rfl⟩), rfl⟩
  · exact ⟨_, _, _, .inr (.inr ⟨_, _, rfl⟩), rfl⟩
  · exact ⟨s.cent, s.midf, [], .inl rfl, by simp [State.enqueue]⟩

theorem restoreCentury_queues (s : State) (yy : Nat) : ∃ c f us, CenturyUops s.dur us
    ∧ restoreCentury s yy = State.enqueue { s with cent := c, midf := f } us := by
  unfold restoreCentury
  rcases correctCentury_cases s s.dur.readCentury.1 s.dur.readCentury.2 yy with ⟨-, -, e⟩ | ⟨-, -, e⟩ | ⟨-, -, e⟩ <;>
    rw [e]
  · exact ⟨_, _, _, .inr (.inr ⟨_, _, rfl⟩), rfl⟩
  · exact ⟨_, _, _, .inr (.inr ⟨_, _, rfl⟩), rfl⟩
  · exact ⟨_, _, _, .inr (.inl rfl), rfl⟩

/-! ### The settle handler, case by case (43_input R127) -/

/-- SETTLE_DONE changes input bits only, or performs the trigger's action in SETTING and then changes input bits. -/
theorem settleInputs_cases (s : State) :
    (∃ f e a, settleInputs s = { s with
        ifg := f, edge := e, armed := a, debSet := InputBits.zero, debActive := false })
      ∨ (s.eng = .setting ∧ ∃ f e a, settleInputs s = { actTrigger { s with debActive := false } with
          ifg := f, edge := e, armed := a, debSet := InputBits.zero }) := by
  obtain ⟨f, e, a, hb, -⟩ := settleButtons_frame s
  unfold settleInputs
  rw [hb]
  unfold settleTurn
  split
  · rcases settleInput_cases .trig { s with ifg := f, edge := e, armed := a } with ⟨-, -, h⟩ | ⟨-, -, h⟩ | ⟨-, h⟩ <;>
      rw [h]
    · cases ht : triggerActs .trig { s with ifg := f.set .trig false, edge := e, armed := a }
      · rw [confirmPress_quiet ht]
        exact .inl ⟨_, _, _, rfl⟩
      · rw [confirmPress_acts ht]
        refine .inr ⟨((triggerActs_iff _ _).mp ht).2.2, f.set .trig false, e.set .trig true, ?_⟩
        unfold actTrigger
        cases s.params.config
        · exact ⟨_, by simp only [commit_eq]; rfl⟩
        · exact ⟨_, by simp only [launch_eq]; rfl⟩
    · rw [confirmRelease_eq]
      exact .inl ⟨_, _, _, rfl⟩
    · exact .inl ⟨_, _, _, rfl⟩
  · exact .inl ⟨_, _, _, rfl⟩

end Sys2Proof.Machine
end

section
/-! How far UQ can grow in one step, handler by handler (10_state R38). -/

namespace Sys2Proof.Machine

/-- From s to t at most n µops were queued. -/
abbrev QueuesAtMost (n : Nat) (s t : State) : Prop := t.uq.length ≤ s.uq.length + n

theorem finishDay_uq (s : State) : (finishDay s).uq = s.uq := by rw [finishDay_frame]

theorem rollDay_growth (s : State) : QueuesAtMost 11 s (rollDay s) := by
  obtain ⟨c, f, us, hu, e⟩ := centBook_queues { s with days := s.days + 1 }
  have hl := hu.length_le
  simp only [QueuesAtMost, rollDay, finishDay_uq, e, State.enqueue_uq, List.length_append]
  omega

theorem tickUp_growth (s : State) : QueuesAtMost 11 s (tickUp s) := by
  unfold tickUp carryMinute carryHour
  split
  · exact Nat.le_add_right _ _
  · split
    · exact Nat.le_add_right _ _
    · split
      · exact Nat.le_add_right _ _
      · exact rollDay_growth _

theorem tickDown_growth (s : State) : QueuesAtMost 1 s (tickDown s) := by
  have hb : (borrowSecond s).uq = s.uq := by rw [borrowSecond_frame]
  unfold tickDown unlockIfZero
  split
  · simp [QueuesAtMost]
  · split <;> simp [QueuesAtMost, hb]

theorem dispatchTick_growth (s : State) : QueuesAtMost 11 s (dispatchTick s) := by
  by_cases he : s.eng = .counting
  · cases hm : s.mode with
    | down => rw [dispatchTick_down he hm]; exact (tickDown_growth _).trans (Nat.add_le_add_left (by decide) _)
    | up => rw [dispatchTick_up he hm]; exact tickUp_growth _
  · rw [dispatchTick_other he]
    exact Nat.le_add_right _ _

/-- The longest queue: a launch writes LTS and LFLAG, each with a repair, and emits RTC_RESET (41_engine R106). -/
theorem actTrigger_growth (s : State) : QueuesAtMost 23 s (actTrigger s) := by
  unfold actTrigger
  cases s.params.config
  · simp [commit_eq, QueuesAtMost]
  · have hlts := s.dur.recordUops_length_le .lts (stampWords_length_lts s.tsLatch)
    have hlflag := s.dur.recordUops_length_le .lflag (n := [1]) rfl
    simp only [Record.size] at hlts hlflag
    simp only [launch_eq, QueuesAtMost, List.length_append, List.length_singleton]
    omega

theorem settleInputs_growth (s : State) : QueuesAtMost 23 s (settleInputs s) := by
  rcases settleInputs_cases s with ⟨f, e, a, h⟩ | ⟨-, f, e, a, h⟩ <;> rw [h]
  · exact Nat.le_add_right _ _
  · exact actTrigger_growth { s with debActive := false }

theorem bootRestore_growth (p : Stamp) (s : State) : QueuesAtMost 11 s (bootRestore p s) := by
  unfold bootRestore
  split
  · obtain ⟨c, f, us, hu, e⟩ := restoreCentury_queues s (stampFields p).yy
    have hl := hu.length_le
    rw [e]
    rcases resumeCount_cases (restoreTime (State.enqueue { s with cent := c, midf := f } us) (stampFields p)) with
      ⟨-, h⟩ | ⟨-, h⟩ <;> rw [h]
    · simpa [QueuesAtMost, enterCounting_eq, State.paintDays, restoreTime] using hl
    · simpa [QueuesAtMost, enterTerminal_eq, restoreTime] using hl
  · exact Nat.le_add_right _ _

theorem bootEngine_growth (p : Stamp) (s : State) : QueuesAtMost 11 s (bootEngine p s) := by
  unfold bootEngine
  split
  · exact bootRestore_growth p (disableTrigger s)
  · exact Nat.le_add_right _ _

@[simp] theorem bootDisplay_uq (s : State) : (bootDisplay s).uq = s.uq := rfl

@[simp] theorem bootEnables_uq (s : State) : (bootEnables s).uq = s.uq := rfl

@[simp] theorem State.buildCache_uq (s : State) : s.buildCache.uq = s.uq := by
  unfold State.buildCache
  split <;> rfl

theorem hostBoot_growth (p : Stamp) (s : State) : QueuesAtMost 11 s (hostBoot p s) := by
  unfold hostBoot bootBlock
  split
  · split
    · simpa [QueuesAtMost] using bootEngine_growth p (bootEnables (bootDisplay s).buildCache)
    · simp [QueuesAtMost, enterError_eq]
  · exact Nat.le_add_right _ _

theorem hostCommission_growth (p : Stamp) (s : State) : QueuesAtMost 22 s (hostCommission p s) := by
  unfold hostCommission
  split
  · split
    · exact Nat.le_add_right _ _
    · have hcts := s.dur.recordUops_length_le .cts (stampWords_length_cts p)
      have hcflag := s.dur.recordUops_length_le .cflag (n := [1]) rfl
      simp only [Record.size] at hcts hcflag
      simp only [QueuesAtMost, State.writeDurable_uq, State.writeDurable_dur, List.length_append]
      omega
  · exact Nat.le_add_right _ _

theorem performUop_growth {u : Uop} {s t : State} (h : performUop u s = .next t) : QueuesAtMost 0 s t := by
  rw [performUop_frame h]
  exact Nat.le_refl _

/-- A PIN_CHANGE that is a step changes the level. -/
theorem execPinChange_next {i : Input} {lvl : Bool} {s t : State} (h : execPinChange i lvl s = .next t) :
    s.pin.get i ≠ lvl ∧ t = changePin i lvl s := by
  unfold execPinChange at h
  split at h
  · cases h
  · cases h; exact ⟨‹_›, rfl⟩

/-- Settles O45, label by label. -/
theorem queueGrowthIsBounded : Obligations.QueueGrowthIsBounded := by
  intro i s t h
  have weaken {n : Nat} {s t : State} (hn : n ≤ 23) (hq : QueuesAtMost n s t) : QueuesAtMost 23 s t :=
    hq.trans (Nat.add_le_add_left hn _)
  cases i with
  | boot p =>
    obtain ⟨-, rfl⟩ := (whenHostReady_next _ _ _).mp h
    exact weaken (by decide) (hostBoot_growth p s)
  | unlockDone =>
    obtain ⟨-, rfl⟩ := (whenHostReady_next _ _ _).mp h
    unfold hostUnlockDone
    split <;> exact Nat.le_add_right _ _
  | commission p =>
    obtain ⟨-, rfl⟩ := (whenHostReady_next _ _ _).mp h
    exact weaken (by decide) (hostCommission_growth p s)
  | setTsLatch p =>
    obtain ⟨-, rfl⟩ := (whenHostReady_next _ _ _).mp h
    exact Nat.le_add_right _ _
  | clearStatus =>
    obtain ⟨-, rfl⟩ := (whenHostReady_next _ _ _).mp h
    exact Nat.le_add_right _ _
  | tickEdge => cases h; exact Nat.le_add_right _ _
  | pinChange k lvl =>
    obtain ⟨-, rfl⟩ := execPinChange_next h
    exact Nat.le_add_right _ _
  | powerLoss => cases h; exact Nat.zero_le _
  | tickDispatch =>
    obtain ⟨-, rfl⟩ := (whenEnabled_next _ _ _ _).mp h
    exact weaken (by decide) (dispatchTick_growth s)
  | inputEntry =>
    obtain ⟨-, rfl⟩ := (whenEnabled_next _ _ _ _).mp h
    rw [enterInput_frame]
    exact Nat.le_add_right _ _
  | settleDone =>
    obtain ⟨-, rfl⟩ := (whenEnabled_next _ _ _ _).mp h
    exact settleInputs_growth s
  | uopStep =>
    obtain ⟨u, us, hq, hp⟩ := execUopStep_next h
    have hle : t.uq.length ≤ us.length := performUop_growth hp
    rw [hq, List.length_cons]
    omega
  | dww a v => exact weaken (by decide) (performUop_growth (u := .dww a v) h)
  | wpu => exact weaken (by decide) (performUop_growth (u := .wpu) h)
  | wpl => exact weaken (by decide) (performUop_growth (u := .wpl) h)
  | emit e => exact weaken (by decide) (performUop_growth (u := .emit e) h)

end Sys2Proof.Machine
end

section
/-! The time page: the three field words are different words, and which painters leave them alone (40_display R77,
R86 to R91). -/

namespace Sys2Proof.Machine

/-! ### The field words are different (40_display R77) -/

/-- Three positions on one word would be 21 different bits of 16. -/
theorem layoutOk_three_positions {m : SegMap} (h : layoutOk m = true) {p : Fin 3 → Fin 6}
    (hp : Function.Injective p) : ¬∃ w, ∀ i, (segAt m (p i) 0).word = w := by
  rintro ⟨w, hw⟩
  have onWord : ∀ i k, (segAt m (p i) k).word = w := fun i k => (layoutOk_word h _ k).trans (hw i)
  have inj : Function.Injective fun x : Fin 3 × Fin 7 =>
      (⟨(segAt m (p x.1) x.2).bit, (layoutOk_bounds h _ _).2⟩ : Fin 16) := by
    rintro ⟨i, k⟩ ⟨j, l⟩ hbit
    obtain ⟨hij, hkl⟩ := layoutOk_bit h ((onWord i k).trans (onWord j l).symm) (congrArg Fin.val hbit)
    exact Prod.ext (hp hij) hkl
  exact absurd (Fintype.card_le_of_injective _ inj) (by decide)

/-- Two fields on one word would put three positions on it. -/
theorem fieldWord_inj {m : SegMap} (h : layoutOk m = true) {f g : Field} (e : fieldWord m f = fieldWord m g) : f = g := by
  by_contra hfg
  have positions : Function.Injective ![f.ones, f.tens, g.ones] := by
    revert hfg
    cases f <;> cases g <;> decide
  refine layoutOk_three_positions h positions ⟨fieldWord m g, fun i => ?_⟩
  fin_cases i
  · exact (layoutOk_field h f).2.trans e
  · exact (layoutOk_field h f).1.trans e
  · exact (layoutOk_field h g).2

/-! ### What leaves a buffer's words alone -/

theorem foldl_read {α : Type} (f : Display → α → Display) {b : Buffer} {w : Nat}
    (hf : ∀ d a, (f d a).read b w = d.read b w) (l : List α) (d : Display) : (l.foldl f d).read b w = d.read b w := by
  induction l generalizing d with
  | nil => rfl
  | cons a l ih => exact (ih (f d a)).trans (hf d a)

theorem writeSegment_read_buffer (m : SegMap) {b b' : Buffer} (h : b' ≠ b) (p : Fin 6) (g : Glyph) (d : Display)
    (k : Fin 7) (w : Nat) : (writeSegment m b p g d k).read b' w = d.read b' w := by
  unfold writeSegment setSegment clearSegment
  split <;> exact Display.read_write_buffer _ _ _ _ h

theorem writeGlyph_read_buffer (m : SegMap) {b b' : Buffer} (h : b' ≠ b) (p : Fin 6) (g : Glyph) (d : Display)
    (w : Nat) : (writeGlyph m b p g d).read b' w = d.read b' w :=
  foldl_read _ (fun d k => writeSegment_read_buffer m h p g d k w) _ d

theorem blankBuffer_read_buffer (m : SegMap) {b b' : Buffer} (h : b' ≠ b) (d : Display) (w : Nat) :
    (blankBuffer m b d).read b' w = d.read b' w :=
  foldl_read _ (fun d p => writeGlyph_read_buffer m h p 0 d w) _ d

theorem paintDayPage_read_primary (m : SegMap) (n : Nat) (d : Display) (w : Nat) :
    (paintDayPage m n d).read .primary w = d.read .primary w :=
  foldl_read _ (fun d p => writeGlyph_read_buffer m (by decide) p _ d w) _ d

theorem showPage_read (p : Page) (d : Display) (b : Buffer) (w : Nat) : (showPage p d).read b w = d.read b w := by
  cases p <;> rfl

/-! ### The time page (40_display R90, 41_engine R107) -/

/-- The primary buffer's field words are the cache words of the given time. -/
def Display.HoldsTime (m : SegMap) (c : WordCache) (sec min hr : Nat) (d : Display) : Prop :=
  d.read .primary (fieldWord m .sec) = c.wordFor .sec sec ∧ d.read .primary (fieldWord m .min) = c.wordFor .min min
    ∧ d.read .primary (fieldWord m .hr) = c.wordFor .hr hr

theorem Display.HoldsTime.congr {m : SegMap} {c : WordCache} {sec min hr : Nat} {d d' : Display}
    (h : d.HoldsTime m c sec min hr) (hd : ∀ w, d'.read .primary w = d.read .primary w) :
    d'.HoldsTime m c sec min hr := by
  simpa only [Display.HoldsTime, hd] using h

section FieldWrites

variable {m : SegMap} (hm : layoutOk m = true) {c : WordCache} {sec min hr : Nat} {d : Display}
include hm

theorem fieldWrite_read_field (f g : Field) (v : Nat) :
    (fieldWrite m c .primary f v d).read .primary (fieldWord m g) =
      if f = g then c.wordFor f v else d.read .primary (fieldWord m g) := by
  split
  case isTrue e => subst e; exact fieldWrite_read_same hm c .primary f v d
  case isFalse e => exact fieldWrite_read_other m c .primary f v d fun hw => e (fieldWord_inj hm hw).symm

theorem Display.HoldsTime.writeSec (h : d.HoldsTime m c sec min hr) (v : Nat) :
    (fieldWrite m c .primary .sec v d).HoldsTime m c v min hr := by
  obtain ⟨-, hmin, hhr⟩ := h
  simp [Display.HoldsTime, fieldWrite_read_field hm, hmin, hhr]

theorem Display.HoldsTime.writeMin (h : d.HoldsTime m c sec min hr) (v : Nat) :
    (fieldWrite m c .primary .min v d).HoldsTime m c sec v hr := by
  obtain ⟨hsec, -, hhr⟩ := h
  simp [Display.HoldsTime, fieldWrite_read_field hm, hsec, hhr]

theorem Display.HoldsTime.writeHr (h : d.HoldsTime m c sec min hr) (v : Nat) :
    (fieldWrite m c .primary .hr v d).HoldsTime m c sec min v := by
  obtain ⟨hsec, hmin, -⟩ := h
  simp [Display.HoldsTime, fieldWrite_read_field hm, hsec, hmin]

/-- The set-up of COUNTING paints the time page. -/
theorem countingDisplay_holdsTime : (countingDisplay c sec min hr m d).HoldsTime m c sec min hr := by
  simp [Display.HoldsTime, countingDisplay, paintTimePage, blankBuffer_read_buffer, fieldWrite_read_field hm]

end FieldWrites

end Sys2Proof.Machine
end

section
/-! The setting value: every change keeps the digits legal and the years cap (10_state R22, 43_input R131 to R134). -/

namespace Sys2Proof.Machine

theorem Setting.maxDigit_le (t : Setting) (k : Fin 5) : t.maxDigit k ≤ 9 := by
  unfold Setting.maxDigit
  split_ifs <;> omega

theorem Setting.DigitsLegal.setDigit {t : Setting} (h : t.DigitsLegal) (k : Fin 5) {v : Nat} (hv : v ≤ 9) :
    (t.setDigit k v).DigitsLegal := by
  intro j
  by_cases hj : j = k
  · subst hj
    rw [Setting.digit_setDigit_same t j (by omega)]
    exact hv
  · rw [Setting.digit_setDigit_other t v hj]
    exact h j

/-- The digits a clamp leaves are legal. -/
theorem Setting.DigitsLegal.clampUnit {t : Setting} (h : t.DigitsLegal) : t.clampUnit.DigitsLegal := by
  have hcap : t.capHundreds.DigitsLegal :=
    ((h.setDigit 3 (by omega)).setDigit 4 (by omega)).setDigit 2 ((Nat.min_le_left _ _).trans (h 2))
  unfold Setting.clampUnit Setting.clearBelowHundred
  split
  · split
    · exact (hcap.setDigit 0 (by omega)).setDigit 1 (by omega)
    · exact hcap
  · exact h

/-- A clamp leaves the years capped, whatever the digits were. -/
theorem Setting.clampUnit_yearsCapped (t : Setting) : t.clampUnit.YearsCapped := by
  intro hu
  rw [Setting.clampUnit_unit] at hu
  obtain ⟨-, -, h2, h3, h4⟩ := t.capHundreds_digit
  have hle : t.capHundreds.digit 2 ≤ 1 := h2 ▸ Nat.min_le_right _ _
  unfold Setting.clampUnit Setting.clearBelowHundred
  rw [if_pos hu]
  split
  case isTrue =>
    simp [Setting.digit_setDigit_other, h3, h4, hle]
  case isFalse hne => exact ⟨h3, h4, hle, fun he => absurd he hne⟩

theorem Setting.DigitsLegal.increment {t : Setting} (h : t.DigitsLegal) : t.increment.DigitsLegal := by
  unfold Setting.increment
  split
  · exact Setting.DigitsLegal.clampUnit (t := { t with unit := t.unit.next }) h
  · rename_i k _
    have hmax := t.maxDigit_le k
    exact (h.setDigit k (by split <;> omega)).clampUnit

theorem Setting.increment_yearsCapped (t : Setting) : t.increment.YearsCapped := by
  unfold Setting.increment
  split <;> exact Setting.clampUnit_yearsCapped _

end Sys2Proof.Machine
end

section
/-! The invariant, procedure by procedure (10_state R45). A handler passes through states between two engine states,
so the clauses that do not speak of the engine are kept apart, and each entry to an engine state adds the others. -/

namespace Sys2Proof.Machine

variable {s t : State}

/-! ### The clauses that do not speak of the engine -/

/-- The invariant's clauses that hold in every engine state alike. -/
structure State.BaseInv (s : State) : Prop where
  time : s.TimeLegal
  digits : s.setting.DigitsLegal
  years : s.setting.YearsCapped
  durable : s.DurableLegal
  settle : s.SettleQuiet
  cache : s.cacheValid = true → layoutOk s.params.segMap = true ∧ s.cache = cacheWords s.params.segMap
  oneShot : s.OneShot

theorem State.Inv.base (h : s.Inv) : s.BaseInv :=
  ⟨h.time, h.digits, h.years, h.durable, h.settle, h.cache.2, h.oneShot⟩

/-- Past IDLE the clauses of the engine are the days, the valid cache and the time shown. -/
theorem State.BaseInv.inv (h : s.BaseInv) (hi : s.eng ≠ .idle) (hv : s.cacheValid = true ∨ s.eng = .error)
    (hd : s.DaysLegal) (hs : s.TimeShown) : s.Inv where
  time := h.time
  days := hd
  digits := h.digits
  years := h.years
  durable := h.durable
  settle := h.settle
  idle he := absurd he hi
  cache := ⟨fun he => hv.resolve_right fun hr => by simp [hr] at he, h.cache⟩
  oneShot := h.oneShot
  shown := hs

/-! ### Queueing (42_durable R117, R119) -/

/-- A list may be queued while no settle is pending; where the one-shot is still open it must spare the launch flag. -/
theorem State.BaseInv.enqueue (h : s.BaseInv) (hq : s.debActive = false) {us : List Uop} (hu : Queueable us)
    (hl : s.ie.trig = true → Spares .lflag us) : (s.enqueue us).BaseInv := by
  obtain ⟨hwf, hzero, hlegal, hbr⟩ := h.durable
  refine { h with durable := ?_, settle := ?_, oneShot := ?_ }
  · exact ⟨hwf, hzero, List.forall_mem_append.mpr ⟨hlegal, hu.legal⟩, (bracketed_append _ _ _ hbr).trans hu.closed⟩
  · exact fun he => absurd (hq.symm.trans he) (by decide)
  · intro hc
    obtain ⟨hflag, hspare⟩ := h.oneShot hc
    exact ⟨hflag, List.forall_mem_append.mpr ⟨hspare, hl hc.2⟩⟩

theorem State.Inv.enqueue (h : s.Inv) (hq : s.debActive = false) {us : List Uop} (hu : Queueable us)
    (hl : s.ie.trig = true → Spares .lflag us) : (s.enqueue us).Inv :=
  have hb := h.base.enqueue hq hu hl
  { h with durable := hb.durable, settle := hb.settle, oneShot := hb.oneShot }

/-- A record's write may be queued; while the one-shot is open, any record's but the launch flag's. -/
theorem State.BaseInv.writeDurable (h : s.BaseInv) (hq : s.debActive = false) {r : Record} {n : List Word}
    (hn : n.length = r.size) (hl : s.ie.trig = true → r ≠ .lflag) : (s.writeDurable r n).BaseInv :=
  h.enqueue hq (.recordUops s.dur hn) fun ht => .recordUops s.dur (hl ht) hn

theorem State.Inv.writeDurable (h : s.Inv) (hq : s.debActive = false) {r : Record} {n : List Word}
    (hn : n.length = r.size) (hl : s.ie.trig = true → r ≠ .lflag) : (s.writeDurable r n).Inv :=
  h.enqueue hq (.recordUops s.dur hn) fun ht => .recordUops s.dur (hl ht) hn

theorem spares_emit (r : Record) (e : BitVec 8) : Spares r [.emit e] := by simp [Spares, uopWrites]

/-! ### Painting and the time fields -/

theorem State.Inv.layout (h : s.Inv) (he : s.eng = .counting ∨ s.eng = .unlocking) :
    layoutOk s.params.segMap = true := by
  have hv : s.cacheValid = true := h.cache.1 (by tauto)
  exact (h.cache.2 hv).1

/-- Where the time is shown, the primary buffer holds it. -/
theorem State.Inv.holdsTime (h : s.Inv) (he : s.eng = .counting ∨ s.eng = .unlocking) :
    s.display.HoldsTime s.params.segMap s.cache s.sec.toNat s.min.toNat s.hr.toNat := h.shown he

theorem State.Inv.showSec (h : s.Inv) {v : BitVec 6} (hv : v.toNat ≤ 59) : (s.showSec v).Inv :=
  have ⟨_, hmin, hhr⟩ := h.time
  { h with
    time := ⟨hv, hmin, hhr⟩
    shown := fun he => (h.holdsTime he).writeSec (h.layout he) v.toNat }

theorem State.Inv.showMin (h : s.Inv) {v : BitVec 6} (hv : v.toNat ≤ 59) : (s.showMin v).Inv :=
  have ⟨hsec, _, hhr⟩ := h.time
  { h with
    time := ⟨hsec, hv, hhr⟩
    shown := fun he => (h.holdsTime he).writeMin (h.layout he) v.toNat }

theorem State.Inv.showHr (h : s.Inv) {v : BitVec 5} (hv : v.toNat ≤ 23) : (s.showHr v).Inv :=
  have ⟨hsec, hmin, _⟩ := h.time
  { h with
    time := ⟨hsec, hmin, hv⟩
    shown := fun he => (h.holdsTime he).writeHr (h.layout he) v.toNat }

theorem State.Inv.pageRotate (h : s.Inv) : (pageRotate s).Inv :=
  { h with shown := fun he => (h.holdsTime he).congr fun w => showPage_read _ _ _ w }

theorem State.Inv.paintDayPage (h : s.Inv) (n : Nat) : (s.paint fun m => paintDayPage m n).Inv :=
  { h with shown := fun he => (h.holdsTime he).congr fun w => paintDayPage_read_primary _ _ _ w }

theorem State.Inv.paintDays (h : s.Inv) : s.paintDays.Inv := h.paintDayPage s.days.toNat

/-! ### Entries to the engine states -/

theorem enterSetting_inv (h : s.BaseInv) (hv : s.cacheValid = true) : (enterSetting s).Inv :=
  State.BaseInv.inv (s := enterSetting s) { h with } nofun (.inl hv) nofun nofun

theorem enterError_inv (h : s.BaseInv) (code : BitVec 4) : (enterError s code).Inv :=
  State.BaseInv.inv (s := enterError s code) { h with } nofun (.inr rfl) nofun nofun

theorem enterTerminal_inv (h : s.BaseInv) (hv : s.cacheValid = true) : (enterTerminal s).Inv :=
  State.BaseInv.inv (s := enterTerminal s) { h with time := ⟨Nat.zero_le 59, Nat.zero_le 59, Nat.zero_le 23⟩ }
    nofun (.inl hv) nofun nofun

theorem enterCounting_inv (h : s.BaseInv) (hv : s.cacheValid = true) {m : CountMode}
    (hd : m = .up → s.days.toNat < Config.longNowDays) : (enterCounting s m).Inv :=
  State.BaseInv.inv (s := enterCounting s m) { h with } nofun (.inl hv) (fun hc => hd hc.2)
    fun _ => countingDisplay_holdsTime (h.cache hv).1

theorem enterUnlocking_inv (h : s.Inv) (he : s.eng = .counting) (hq : s.debActive = false) : (enterUnlocking s).Inv :=
  have hv : s.cacheValid = true := h.cache.1 (.inr (.inl he))
  State.Inv.enqueue (s := { s with eng := .unlocking })
    (State.BaseInv.inv { h.base with } nofun (.inl hv) nofun fun _ => h.shown (.inl he)) hq (.emit rfl)
    fun _ => spares_emit _ _

end Sys2Proof.Machine
end

section
/-! Each handler keeps the invariant (10_state R45). -/

namespace Sys2Proof.Machine

variable {s t : State}

/-! ### The countdown tick (41_engine R98) -/

theorem borrowHour_inv (h : s.Inv) (hm : s.mode = .down) : (borrowHour s).Inv := by
  unfold borrowHour
  split
  case isTrue hpos => exact h.showHr (by have htime := h.time; rw [toNat_dec hpos]; omega)
  case isFalse =>
    exact { h.showHr (v := 23) (by decide) with days := fun hc => absurd (hm.symm.trans hc.2) (by decide) }

theorem borrowMinute_inv (h : s.Inv) (hm : s.mode = .down) : (borrowMinute s).Inv := by
  unfold borrowMinute
  split
  case isTrue hpos => exact h.showMin (by have htime := h.time; rw [toNat_dec hpos]; omega)
  case isFalse => exact borrowHour_inv (h.showMin (by decide)) hm

theorem borrowSecond_inv (h : s.Inv) (hm : s.mode = .down) : (borrowSecond s).Inv := by
  unfold borrowSecond
  split
  case isTrue hpos => exact h.showSec (by have htime := h.time; rw [toNat_dec hpos]; omega)
  case isFalse => exact borrowMinute_inv (h.showSec (by decide)) hm

theorem tickDown_inv (h : s.Inv) (he : s.eng = .counting) (hm : s.mode = .down) (hq : s.debActive = false) :
    (tickDown s).Inv := by
  have heng : (borrowSecond s).eng = s.eng := by rw [borrowSecond_frame]
  have hdeb : (borrowSecond s).debActive = s.debActive := by rw [borrowSecond_frame]
  unfold tickDown unlockIfZero
  split
  · exact enterUnlocking_inv h he hq
  · split
    · exact enterUnlocking_inv (borrowSecond_inv h hm) (heng.trans he) (hdeb.trans hq)
    · exact borrowSecond_inv h hm

/-! ### The count-up tick (41_engine R102) -/

theorem rollDay_inv (h : s.Inv) (he : s.eng = .counting) (hq : s.debActive = false) : (rollDay s).Inv := by
  obtain ⟨c, f, us, hu, e⟩ := centBook_queues { s with days := s.days + 1 }
  have booked : (State.enqueue { s with cent := c, midf := f } us).Inv :=
    State.Inv.enqueue (s := { s with cent := c, midf := f }) { h with } hq hu.queueable fun _ => hu.spares
  unfold rollDay
  rcases finishDay_cases (centBook { s with days := s.days + 1 }) with ⟨hd, e'⟩ | ⟨-, e'⟩ <;> rw [e', e]
  · rw [e] at hd
    exact State.Inv.pageRotate (State.Inv.paintDays { booked with days := fun _ => hd })
  · exact enterTerminal_inv { booked.base with } (h.cache.1 (.inr (.inl he)))

theorem carryHour_inv (h : s.Inv) (he : s.eng = .counting) (hq : s.debActive = false) : (carryHour s).Inv := by
  unfold carryHour
  split
  case isTrue hlt => exact (h.showHr (Nat.le_of_lt_succ (BitVec.lt_def.mp hlt))).pageRotate
  case isFalse => exact rollDay_inv (h.showHr (by decide)) he hq

theorem carryMinute_inv (h : s.Inv) (he : s.eng = .counting) (hq : s.debActive = false) : (carryMinute s).Inv := by
  unfold carryMinute
  split
  case isTrue hlt => exact (h.showMin (Nat.le_of_lt_succ (BitVec.lt_def.mp hlt))).pageRotate
  case isFalse => exact carryHour_inv (h.showMin (by decide)) he hq

theorem tickUp_inv (h : s.Inv) (he : s.eng = .counting) (hq : s.debActive = false) : (tickUp s).Inv := by
  unfold tickUp
  split
  case isTrue hlt => exact (h.showSec (Nat.le_of_lt_succ (BitVec.lt_def.mp hlt))).pageRotate
  case isFalse => exact carryMinute_inv (h.showSec (by decide)) he hq

theorem dispatchTick_inv (h : s.Inv) (hq : s.debActive = false) : (dispatchTick s).Inv := by
  have cleared : State.Inv { s with tickIfg := false } := { h with }
  by_cases he : s.eng = .counting
  · cases hm : s.mode with
    | down => rw [dispatchTick_down he hm]; exact tickDown_inv cleared he hm hq
    | up => rw [dispatchTick_up he hm]; exact tickUp_inv cleared he hq
  · rw [dispatchTick_other he]
    exact cleared

/-! ### The trigger's action (41_engine R100, R106) -/

theorem setDuration_timeLegal (s : State) (n : Nat) : (s.setDuration n).TimeLegal := by
  simp only [State.TimeLegal, State.setDuration, Config.secPerDay, BitVec.toNat_ofNat]
  omega

theorem commit_inv (h : s.BaseInv) (hv : s.cacheValid = true) (hq : s.debActive = false) : (commit s).Inv :=
  have timed : (s.setDuration s.setting.seconds).BaseInv := { h with time := setDuration_timeLegal s _ }
  (enterCounting_inv (m := .down) timed hv nofun).enqueue hq (.emit rfl) fun _ => spares_emit _ _

/-- With the trigger's enable cleared the one-shot asks nothing. -/
theorem disableTrigger_oneShot (s : State) : (disableTrigger s).OneShot := fun ⟨_, ht⟩ => nomatch ht

theorem launchQueue_base (h : s.BaseInv) (hq : s.debActive = false) (ht : s.ie.trig = false) :
    (launchQueue s).BaseInv := by
  have closed : s.ie.trig ≠ true := by simp [ht]
  have written := (h.writeDurable hq (stampWords_length_lts s.tsLatch) fun e => absurd e closed).writeDurable
    (r := .lflag) (n := [1]) hq rfl fun e => absurd e closed
  exact written.enqueue hq (.emit rfl) fun _ => spares_emit _ _

theorem launchTime_days (s : State) : (launchTime s).days = 0 := rfl

@[simp] theorem launchTime_cacheValid (s : State) : (launchTime s).cacheValid = s.cacheValid := rfl

@[simp] theorem launchQueue_cacheValid (s : State) : (launchQueue s).cacheValid = s.cacheValid := by
  simp [launchQueue]

@[simp] theorem disableTrigger_cacheValid (s : State) : (disableTrigger s).cacheValid = s.cacheValid := rfl

theorem launch_inv (h : s.BaseInv) (hv : s.cacheValid = true) (hq : s.debActive = false) : (launch s).Inv := by
  have closed : (disableTrigger s).BaseInv := { h with oneShot := disableTrigger_oneShot s }
  have queued := launchQueue_base closed hq rfl
  have timed : (launchTime (launchQueue (disableTrigger s))).BaseInv :=
    { queued with time := ⟨Nat.zero_le 59, Nat.zero_le 59, Nat.zero_le 23⟩ }
  have valid : (launchTime (launchQueue (disableTrigger s))).cacheValid = true := by simpa using hv
  exact (enterCounting_inv timed valid fun _ => by rw [launchTime_days]; decide).paintDayPage 0

theorem actTrigger_inv (h : s.BaseInv) (hv : s.cacheValid = true) (hq : s.debActive = false) : (actTrigger s).Inv := by
  unfold actTrigger
  cases s.params.config
  · exact commit_inv h hv hq
  · exact launch_inv h hv hq

theorem settleInputs_inv (h : s.Inv) : (settleInputs s).Inv := by
  rcases settleInputs_cases s with ⟨f, e, a, hs⟩ | ⟨he, f, e, a, hs⟩ <;> rw [hs]
  · exact { h with settle := nofun }
  · have acted : (actTrigger { s with debActive := false }).Inv :=
      actTrigger_inv { h.base with settle := nofun } (h.cache.1 (.inl he)) rfl
    exact { acted with }

/-! ### The buttons (43_input R126, R130, R133) -/

/-- A change of the setting in SETTING, painted. -/
theorem paintSetting_inv (h : s.Inv) (he : s.eng = .setting) {v : Setting} (hd : v.DigitsLegal) (hy : v.YearsCapped) :
    (State.paintSetting { s with setting := v }).Inv :=
  { h with
    digits := hd
    years := hy
    shown := fun hc => by simp [State.paintSetting, he] at hc }

theorem buttonActs_setting {snapshot : InputBits} {i : Input} (h : buttonActs snapshot i s = true) :
    s.eng = .setting := by
  simp only [buttonActs, Bool.and_eq_true, decide_eq_true_eq] at h
  exact h.2

theorem entryAdvance_inv (h : s.Inv) (snapshot : InputBits) : (entryAdvance snapshot s).Inv := by
  unfold entryAdvance
  split
  case isTrue ha => exact paintSetting_inv h (buttonActs_setting ha) h.digits h.years
  case isFalse => exact h

theorem entryIncrement_inv (h : s.Inv) (snapshot : InputBits) : (entryIncrement snapshot s).Inv := by
  unfold entryIncrement
  split
  case isTrue ha =>
    exact paintSetting_inv h (buttonActs_setting ha) (Setting.DigitsLegal.increment h.digits)
      (Setting.increment_yearsCapped _)
  case isFalse => exact h

theorem enterInput_inv (h : s.Inv) (hq : s.uq = []) : (enterInput s).Inv :=
  have acted := entryIncrement_inv (entryAdvance_inv h s.requests) s.requests
  have huq : (enterInput s).uq = s.uq := by rw [enterInput_frame]
  { acted with settle := fun _ => huq.trans hq }

/-! ### µops (42_durable R120 to R124) -/

/-- The head of the queue, performed, keeps the memory, the rest of the queue and its bracket legal. -/
theorem performUop_durable {u : Uop} {us : List Uop} (h : s.DurableLegal) (hu : s.uq = u :: us)
    (hp : performUop u { s with uq := us } = .next t) : t.DurableLegal := by
  obtain ⟨hwf, hzero, hlegal, hbr⟩ := h
  rw [hu] at hlegal hbr
  obtain ⟨hhead, htail⟩ := List.forall_mem_cons.mp hlegal
  rcases performUop_cases hp with
    ⟨a, v, rfl, ha, hw, rfl⟩ | ⟨a, v, rfl, -, hw, rfl⟩ | ⟨rfl, rfl⟩ | ⟨rfl, rfl⟩ | ⟨e, rfl, -, rfl⟩
  · have hlow : a.toNat < 0x19 := of_decide_eq_true hhead
    refine ⟨Memory.wf_write v ha hwf, fun b hb => ?_, htail, ((Bool.and_eq_true _ _).mp hbr).2⟩
    exact (Memory.read_write_other v (by omega)).trans (hzero b hb)
  · have hw : s.wp = true := hw
    simp [bracketed, hw] at hbr
  · exact ⟨hwf, hzero, htail, hbr⟩
  · exact ⟨hwf, hzero, htail, hbr⟩
  · exact ⟨hwf, hzero, htail, hbr⟩

/-- A µop that does not write the launch flag's record leaves the flag. -/
theorem performUop_flagSet {u : Uop} {r : Record} (hp : performUop u s = .next t) (hu : uopWrites r u = false) :
    t.dur.flagSet r = s.dur.flagSet r := by
  unfold Memory.flagSet
  rw [Memory.readDurable_congr fun b hlo hhi => performUop_read hp fun a v e => ?_]
  subst e
  simp only [uopWrites, Bool.and_eq_false_iff, decide_eq_false_iff_not] at hu
  omega

theorem performUop_oneShot {u : Uop} {us : List Uop} (h : s.OneShot) (hu : s.uq = u :: us)
    (hp : performUop u { s with uq := us } = .next t) : t.OneShot := by
  have hf := performUop_frame hp
  intro hc
  rw [hf] at hc
  obtain ⟨hflag, hspare⟩ := h hc
  rw [hu] at hspare
  obtain ⟨hhead, htail⟩ := List.forall_mem_cons.mp hspare
  refine ⟨(performUop_flagSet hp hhead).trans hflag, ?_⟩
  rw [hf]
  exact htail

theorem execUopStep_inv (h : s.Inv) (ht : execUopStep s = .next t) : t.Inv := by
  obtain ⟨u, us, hu, hp⟩ := execUopStep_next ht
  have hdur := performUop_durable h.durable hu hp
  have hone := performUop_oneShot h.oneShot hu hp
  have quiet : s.debActive ≠ true := fun hd => by simp [h.settle hd] at hu
  have hf := performUop_frame hp
  generalize t.dur = d, t.wp = w, t.wpFault = wf, t.out = o at hf
  subst hf
  exact { h with durable := hdur, settle := fun hd => absurd hd quiet, oneShot := hone }

/-! ### The host commands (44_host R137 to R141) -/

theorem reject_inv (h : s.Inv) (r : BitVec 2) : (s.reject r).Inv := { h with }

theorem buildCache_base (h : s.BaseInv) : s.buildCache.BaseInv := by
  unfold State.buildCache
  split
  case isTrue hm => exact { h with cache := fun _ => ⟨hm, rfl⟩ }
  case isFalse => exact h

theorem buildCache_valid (hm : layoutOk s.params.segMap = true) : s.buildCache.cacheValid = true := by
  rw [State.buildCache, if_pos hm]

theorem resumeCount_inv (h : s.BaseInv) (hv : s.cacheValid = true) : (resumeCount s).Inv := by
  rcases resumeCount_cases s with ⟨hd, e⟩ | ⟨-, e⟩ <;> rw [e]
  · exact (enterCounting_inv h hv fun _ => hd).paintDays
  · exact enterTerminal_inv h hv

theorem restoreTime_base (h : s.BaseInv) {p : Stamp} (hp : validTs p = true) :
    (restoreTime s (stampFields p)).BaseInv := by
  obtain ⟨-, -, -, -, -, hh, hmi, hss⟩ := validTs_range hp
  refine { h with time := ?_ }
  simp only [State.TimeLegal, restoreTime, BitVec.toNat_ofNat]
  omega

theorem bootRestore_inv (h : s.BaseInv) (hv : s.cacheValid = true) (hq : s.debActive = false) (p : Stamp) :
    (bootRestore p s).Inv := by
  unfold bootRestore
  split
  case isTrue hp =>
    obtain ⟨c, f, us, hu, e⟩ := restoreCentury_queues s (stampFields p).yy
    rw [e]
    have booked : (State.enqueue { s with cent := c, midf := f } us).BaseInv :=
      State.BaseInv.enqueue (s := { s with cent := c, midf := f }) { h with } hq hu.queueable fun _ => hu.spares
    exact resumeCount_inv (restoreTime_base booked hp) hv
  case isFalse => exact enterError_inv h errorClock

/-- BOOT enables the trigger only of a device that is not launched: the one-shot. -/
theorem bootEngine_inv (h : s.BaseInv) (hv : s.cacheValid = true) (hq : s.debActive = false) (huq : s.uq = [])
    (p : Stamp) : (bootEngine p (bootEnables s)).Inv := by
  unfold bootEngine
  split
  case isTrue =>
    have closed : (disableTrigger (bootEnables s)).BaseInv :=
      { h with oneShot := disableTrigger_oneShot (bootEnables s) }
    exact bootRestore_inv closed hv hq p
  case isFalse hl =>
    have unset : (bootEnables s).OneShot := by
      rintro ⟨hc, -⟩
      refine ⟨?_, by rw [bootEnables_uq, huq]; exact List.forall_mem_nil _⟩
      simpa [State.launched, hc] using hl
    exact enterSetting_inv { h with oneShot := unset } hv

theorem hostBoot_inv (h : s.Inv) (hq : s.Quiescent) (p : Stamp) : (hostBoot p s).Inv := by
  obtain ⟨huq, hdeb⟩ := hq
  have cleared : (bootDisplay s).BaseInv := { h.base with }
  have hdeb' : (bootDisplay s).buildCache.debActive = false := by
    unfold State.buildCache
    split <;> exact hdeb
  unfold hostBoot bootBlock
  split
  · split
    case isTrue hm =>
      exact bootEngine_inv (buildCache_base cleared) (buildCache_valid hm) hdeb' (by simpa using huq) p
    case isFalse => exact enterError_inv cleared errorLayout
  · exact reject_inv h _

theorem hostUnlockDone_inv (h : s.Inv) : (hostUnlockDone s).Inv := by
  unfold hostUnlockDone
  split
  case isTrue he => exact enterSetting_inv h.base (h.cache.1 (by simp [he]))
  case isFalse => exact reject_inv h _

theorem hostCommission_inv (h : s.Inv) (hq : s.debActive = false) (p : Stamp) : (hostCommission p s).Inv := by
  unfold hostCommission
  split
  · split
    · exact reject_inv h _
    · exact (h.writeDurable hq (stampWords_length_cts p) fun _ => by decide).writeDurable hq rfl fun _ => by decide
  · exact reject_inv h _

/-! ### The events (60_exceptions R144 to R146) -/

/-- A power loss gives the reset state with the durable memory kept and its queue discarded. -/
theorem powerCycle_inv (h : s.Inv) : (powerCycle s).Inv := by
  obtain ⟨hwf, hzero, -, -⟩ := h.durable
  exact { invariantHoldsAtReset with
    durable := ⟨hwf, hzero, List.forall_mem_nil _, rfl⟩
    cache := ⟨invariantHoldsAtReset.cache.1, nofun⟩
    oneShot := nofun
    shown := nofun }

/-! ### One step -/

/-- Every label but a µop's own keeps the invariant. -/
theorem exec_inv {i : Instr} (hi : i.labelClass ≠ .uop) (h : s.Inv) (ht : exec i s = .next t) : t.Inv := by
  cases i with
  | boot p =>
    obtain ⟨⟨hquiet, -⟩, rfl⟩ := (whenHostReady_next _ _ _).mp ht
    exact hostBoot_inv h hquiet p
  | unlockDone =>
    obtain ⟨-, rfl⟩ := (whenHostReady_next _ _ _).mp ht
    exact hostUnlockDone_inv h
  | commission p =>
    obtain ⟨⟨⟨-, hdeb⟩, -⟩, rfl⟩ := (whenHostReady_next _ _ _).mp ht
    exact hostCommission_inv h hdeb p
  | setTsLatch p =>
    obtain ⟨-, rfl⟩ := (whenHostReady_next _ _ _).mp ht
    exact { h with }
  | clearStatus =>
    obtain ⟨-, rfl⟩ := (whenHostReady_next _ _ _).mp ht
    exact { h with }
  | tickEdge => cases ht; exact { h with }
  | pinChange k lvl =>
    obtain ⟨-, rfl⟩ := execPinChange_next ht
    exact { h with }
  | powerLoss => cases ht; exact powerCycle_inv h
  | tickDispatch =>
    obtain ⟨hk, rfl⟩ := (whenEnabled_next _ _ _ _).mp ht
    obtain ⟨⟨-, hdeb⟩, -⟩ := s.ownStep_tickDispatch.mp hk
    exact dispatchTick_inv h hdeb
  | inputEntry =>
    obtain ⟨hk, rfl⟩ := (whenEnabled_next _ _ _ _).mp ht
    obtain ⟨⟨huq, -⟩, -⟩ := s.ownStep_inputEntry.mp hk
    exact enterInput_inv h huq
  | settleDone =>
    obtain ⟨-, rfl⟩ := (whenEnabled_next _ _ _ _).mp ht
    exact settleInputs_inv h
  | uopStep => exact execUopStep_inv h ht
  | dww a v => exact absurd rfl hi
  | wpu => exact absurd rfl hi
  | wpl => exact absurd rfl hi
  | emit e => exact absurd rfl hi

/-- Settles O52: at a step boundary the block's own step or an offered label runs, a word is refused on the command
port, or the block sleeps. -/
theorem stepKeepsTheInvariant : Obligations.StepKeepsTheInvariant := by
  intro s t h ht
  have taken : s.takeOffer.Inv := { h with }
  rcases step_cases ht with ⟨k, -, hk⟩ | ⟨i, hi, he⟩ | rfl | rfl
  · exact exec_inv (by cases k <;> decide) h hk
  · exact exec_inv hi taken he
  · exact reject_inv taken _
  · exact h

end Sys2Proof.Machine
end

section
/-! The durable memory at each step: only a µop writes it, a µop keeps it canonical, and which µops are stopped
(20_memory R48, R49, 30_encoding R68, 42_durable R120 to R124). -/

namespace Sys2Proof.Machine

variable {s t : State}

/-! ### Which µops complete, and where the others stop (42_durable R120, R121, R124, log 12) -/

theorem performDww_outside {a : BitVec 8} (h : Config.durWords ≤ a.toNat) (v : Word) (s : State) :
    performDww a v s = .refused .durableAddressOutside :=
  if_neg fun ha => Nat.not_le_of_lt (of_decide_eq_true ha) h

theorem eventCodeOk_iff (e : BitVec 8) : eventCodeOk e = true ↔ e = 1 ∨ e = 2 := by simp [eventCodeOk]

theorem performEmit_reserved {e : BitVec 8} (h : ¬(e = 1 ∨ e = 2)) (s : State) :
    performEmit e s = .refused .reservedEventCode :=
  if_neg fun he => h ((eventCodeOk_iff e).mp he)

theorem execUopStep_empty (h : s.uq = []) : execUopStep s = .fault .stepNotEnabled := by
  rw [execUopStep, h]

theorem execUopStep_cons {u : Uop} {us : List Uop} (h : s.uq = u :: us) :
    execUopStep s = performUop u { s with uq := us } := by
  rw [execUopStep, h]

/-- Only the operand limits of DWW and EMIT can stop a µop. -/
theorem performUop_completes {u : Uop} (h : u.wellFormed = true) (s : State) : ∃ t, performUop u s = .next t := by
  cases u with
  | dww a v => exact ⟨_, if_pos h⟩
  | wpu => exact ⟨_, rfl⟩
  | wpl => exact ⟨_, rfl⟩
  | emit e => exact ⟨_, if_pos h⟩

/-- The µops of the invariant's queue keep within their operand limits: the reserved words, which they leave out, lie
below the memory's end. -/
theorem wellFormed_of_uopLegal {u : Uop} (h : uopLegal u = true) : u.wellFormed = true := by
  cases u with
  | dww a v => exact decide_eq_true (Nat.lt_of_lt_of_le (of_decide_eq_true h) (by decide : 0x19 ≤ Config.durWords))
  | wpu => rfl
  | wpl => rfl
  | emit e => exact h

/-- Settles O39: the empty queue, the address outside the memory and the reserved event code, each by its own stop. -/
theorem uopsOutsideTheirRulesStop : Obligations.UopsOutsideTheirRulesStop := fun _ _ v s =>
  ⟨execUopStep_empty, fun ha => performDww_outside ha v s, fun he => performEmit_reserved he s⟩

/-- Settles O55: the invariant's queue holds only legal µops, so its head completes. -/
theorem queuedUopsAlwaysRun : Obligations.QueuedUopsAlwaysRun := by
  intro s hinv hne
  obtain ⟨u, us, hq⟩ := List.exists_cons_of_ne_nil hne
  obtain ⟨-, -, hlegal, -⟩ := hinv.durable
  have hu : uopLegal u = true := hlegal u (hq ▸ List.mem_cons_self)
  obtain ⟨t, ht⟩ := performUop_completes (wellFormed_of_uopLegal hu) { s with uq := us }
  exact ⟨t, (execUopStep_cons hq).trans ht⟩

/-! ### What leaves the durable memory alone (42_durable R117) -/

@[simp] theorem dispatchTick_dur (s : State) : (dispatchTick s).dur = s.dur := by rw [dispatchTick_frame]

@[simp] theorem enterInput_dur (s : State) : (enterInput s).dur = s.dur := by rw [enterInput_frame]

@[simp] theorem settleInputs_dur (s : State) : (settleInputs s).dur = s.dur := by rw [settleInputs_frame]

@[simp] theorem hostBoot_dur (p : Stamp) (s : State) : (hostBoot p s).dur = s.dur := by rw [hostBoot_frame]

@[simp] theorem hostUnlockDone_dur (s : State) : (hostUnlockDone s).dur = s.dur := by
  unfold hostUnlockDone
  split <;> rfl

@[simp] theorem hostCommission_dur (p : Stamp) (s : State) : (hostCommission p s).dur = s.dur := by
  unfold hostCommission
  split
  · split <;> rfl
  · rfl

/-- Commands, events and handlers only queue their durable writes: no label but UOP_STEP and a µop's own changes the
durable memory. -/
theorem exec_dur {i : Instr} (hi : i.labelClass ≠ .uop) (hq : i ≠ .uopStep) (h : exec i s = .next t) :
    t.dur = s.dur := by
  cases i with
  | boot p => obtain ⟨-, rfl⟩ := (whenHostReady_next _ _ _).mp h; exact hostBoot_dur p s
  | unlockDone => obtain ⟨-, rfl⟩ := (whenHostReady_next _ _ _).mp h; exact hostUnlockDone_dur s
  | commission p => obtain ⟨-, rfl⟩ := (whenHostReady_next _ _ _).mp h; exact hostCommission_dur p s
  | setTsLatch p => obtain ⟨-, rfl⟩ := (whenHostReady_next _ _ _).mp h; rfl
  | clearStatus => obtain ⟨-, rfl⟩ := (whenHostReady_next _ _ _).mp h; rfl
  | tickEdge => cases h; rfl
  | pinChange k lvl => obtain ⟨-, rfl⟩ := execPinChange_next h; rfl
  | powerLoss => cases h; rfl
  | tickDispatch => obtain ⟨-, rfl⟩ := (whenEnabled_next _ _ _ _).mp h; exact dispatchTick_dur s
  | inputEntry => obtain ⟨-, rfl⟩ := (whenEnabled_next _ _ _ _).mp h; exact enterInput_dur s
  | settleDone => obtain ⟨-, rfl⟩ := (whenEnabled_next _ _ _ _).mp h; exact settleInputs_dur s
  | uopStep => exact absurd rfl hq
  | dww a v => exact absurd rfl hi
  | wpu => exact absurd rfl hi
  | wpl => exact absurd rfl hi
  | emit e => exact absurd rfl hi

/-! ### One step keeps the canonical form (20_memory R49, log 15) -/

theorem execUopStep_wf (h : execUopStep s = .next t) (hw : s.dur.wf = true) : t.dur.wf = true := by
  obtain ⟨u, us, -, hp⟩ := execUopStep_next h
  exact performUop_wf hp hw

theorem exec_wf {i : Instr} (hi : i.labelClass ≠ .uop) (h : exec i s = .next t) (hw : s.dur.wf = true) :
    t.dur.wf = true := by
  by_cases hq : i = .uopStep
  · subst hq
    exact execUopStep_wf h hw
  · rwa [exec_dur hi hq h]

/-- Settles O53: the step runs a label that keeps the canonical form, or leaves the memory as it is. -/
theorem stepKeepsMemoryCanonical : Obligations.StepKeepsMemoryCanonical := by
  intro s t hw ht
  rcases step_cases ht with ⟨k, -, hk⟩ | ⟨i, hi, he⟩ | rfl | rfl
  · exact exec_wf (by cases k <;> decide) hk hw
  · exact exec_wf hi he hw
  · exact hw
  · exact hw

end Sys2Proof.Machine
end

section
/-! The decoder and the encoder: what each decoder accepts, and that a word and its operation give each other back
(30_encoding R60 to R68). -/

namespace Sys2Proof

open BitVec (extractLsb'_append_eq_left extractLsb'_append_eq_right extractLsb'_append_extractLsb'
  extractLsb'_append_extractLsb'_eq_extractLsb')

/-! ### A concatenation is known by its parts -/

section
variable {a b c d n lo : Nat} {p : BitVec a} {q : BitVec b} {r : BitVec c} {t : BitVec d}

theorem bits_append_inj {p' : BitVec a} {q' : BitVec b} : p ++ q = p' ++ q' ↔ p = p' ∧ q = q' := by
  constructor
  · intro h
    exact ⟨by simpa only [extractLsb'_append_eq_left] using congrArg (·.extractLsb' b a) h,
      by simpa only [extractLsb'_append_eq_right] using congrArg (·.extractLsb' 0 b) h⟩
  · rintro ⟨rfl, rfl⟩
    rfl

theorem bits_eq_append_iff {x : BitVec (a + b)} : x = p ++ q ↔ x.extractLsb' b a = p ∧ x.extractLsb' 0 b = q := by
  rw [← bits_append_inj, extractLsb'_append_extractLsb']

/-- Of a slice, so that a longer concatenation is taken apart from the right. -/
theorem slice_eq_append_iff {x : BitVec n} :
    x.extractLsb' lo (a + b) = p ++ q ↔ x.extractLsb' (lo + b) a = p ∧ x.extractLsb' lo b = q := by
  rw [← bits_append_inj, extractLsb'_append_extractLsb'_eq_extractLsb' rfl]

theorem bits_eq_append₃_iff {x : BitVec (a + b + c)} :
    x = p ++ q ++ r ↔ x.extractLsb' (c + b) a = p ∧ x.extractLsb' c b = q ∧ x.extractLsb' 0 c = r := by
  rw [bits_eq_append_iff, slice_eq_append_iff, and_assoc]

theorem bits_eq_append₄_iff {x : BitVec (a + b + c + d)} :
    x = p ++ q ++ r ++ t ↔ x.extractLsb' (d + c + b) a = p ∧ x.extractLsb' (d + c) b = q ∧ x.extractLsb' d c = r
      ∧ x.extractLsb' 0 d = t := by
  rw [bits_eq_append_iff, slice_eq_append_iff, slice_eq_append_iff, and_assoc, and_assoc]

end

theorem extractLsb'_one_eq_ofBool {n : Nat} (x : BitVec n) (k : Nat) :
    x.extractLsb' k 1 = BitVec.ofBool (x.getLsbD k) := by
  apply BitVec.eq_of_getLsbD_eq
  simp [BitVec.getLsbD_ofBool]

/-! ### What each operand decoder accepts, and what it answers (30_encoding R61 to R66, R68) -/

section
variable {x : BitVec 48} {i j : Instr}

/-- The fields of a PIN_CHANGE operand (30_encoding R63). -/
theorem pinOperand_iff {h : BitVec 39} {l : Bool} {m : BitVec 6} {k : BitVec 2} :
    x = h ++ BitVec.ofBool l ++ m ++ k ↔ x.extractLsb' 9 39 = h ∧ x.getLsbD 8 = l ∧ x.extractLsb' 2 6 = m
      ∧ x.extractLsb' 0 2 = k := by
  rw [← BitVec.ofBool_eq_iff_eq, ← extractLsb'_one_eq_ofBool]
  exact bits_eq_append₄_iff (a := 39) (b := 1) (c := 6) (d := 2)

/-- The fields of a DWW operand (30_encoding R65). -/
theorem dwwOperand_iff {h : BitVec 24} {a : BitVec 8} {v : Word} :
    x = h ++ a ++ v ↔ x.extractLsb' 24 24 = h ∧ x.extractLsb' 16 8 = a ∧ x.extractLsb' 0 16 = v :=
  bits_eq_append₃_iff (a := 24) (b := 8) (c := 16)

/-- The fields of an EMIT operand (30_encoding R65). -/
theorem emitOperand_iff {h : BitVec 40} {e : BitVec 8} :
    x = h ++ e ↔ x.extractLsb' 8 40 = h ∧ x.extractLsb' 0 8 = e := bits_eq_append_iff (a := 40) (b := 8)

theorem decodeBare_ok_iff : decodeBare x j = .ok i ↔ i = j ∧ x = 0#48 := by
  unfold decodeBare
  split <;> rename_i h <;> simp [h, eq_comm]

theorem decodePinChange_ok_iff :
    decodePinChange x = .ok i ↔ ∃ k lvl, i = .pinChange k lvl ∧ x = 0#39 ++ BitVec.ofBool lvl ++ 0#6 ++ k.code := by
  simp only [pinOperand_iff]
  constructor
  · intro h
    unfold decodePinChange at h
    split_ifs at h with hu h0 h1 h2 <;> cases h
    all_goals
      obtain ⟨hm, hh⟩ := not_or.mp hu
      refine ⟨_, _, rfl, not_not.mp hh, rfl, not_not.mp hm, ?_⟩
      assumption
  · rintro ⟨k, _, rfl, hh, rfl, hm, hk⟩
    cases k <;> simp [decodePinChange, hh, hm, hk, Input.code]

theorem decodeDww_ok_iff : decodeDww x = .ok i ↔ ∃ a v, i = .dww a v ∧ x = 0#24 ++ a ++ v := by
  simp only [dwwOperand_iff]
  unfold decodeDww
  split <;> rename_i h <;> simp [h, eq_comm]

theorem decodeEmit_ok_iff :
    decodeEmit x = .ok i ↔ ∃ e, i = .emit e ∧ eventCodeOk e = true ∧ x = 0#40 ++ e := by
  simp only [emitOperand_iff]
  constructor
  · intro h
    unfold decodeEmit at h
    split_ifs at h with hu he
    cases h
    exact ⟨_, rfl, he, not_not.mp hu, rfl⟩
  · rintro ⟨_, rfl, he, hu, rfl⟩
    simp [decodeEmit, he, hu]

/-! ### What each CLASS answers is encoded by the operation and operand it was read from (30_encoding R67) -/

variable {o : BitVec 4}

theorem encode_of_decodeCommandOp (h : decodeCommandOp o x = .ok i) : encode i = encodeFields 0#4 o x := by
  unfold decodeCommandOp at h
  split_ifs at h with h1 h2 h3 h4 h5
  · cases h; rw [h1, encode]
  · obtain ⟨rfl, rfl⟩ := decodeBare_ok_iff.mp h; rw [h2, encode]
  · cases h; rw [h3, encode]
  · cases h; rw [h4, encode]
  · obtain ⟨rfl, rfl⟩ := decodeBare_ok_iff.mp h; rw [h5, encode]

theorem encode_of_decodeEventOp (h : decodeEventOp o x = .ok i) : encode i = encodeFields 1#4 o x := by
  unfold decodeEventOp at h
  split_ifs at h with h1 h2 h3
  · obtain ⟨rfl, rfl⟩ := decodeBare_ok_iff.mp h; rw [h1, encode]
  · obtain ⟨k, lvl, rfl, rfl⟩ := decodePinChange_ok_iff.mp h; rw [h2, encode]
  · obtain ⟨rfl, rfl⟩ := decodeBare_ok_iff.mp h; rw [h3, encode]

theorem encode_of_decodeInternalOp (h : decodeInternalOp o x = .ok i) : encode i = encodeFields 2#4 o x := by
  unfold decodeInternalOp at h
  split_ifs at h with h1 h2 h3 h4 <;> obtain ⟨rfl, rfl⟩ := decodeBare_ok_iff.mp h
  · rw [h1, encode]
  · rw [h2, encode]
  · rw [h3, encode]
  · rw [h4, encode]

theorem encode_of_decodeUopOp (h : decodeUopOp o x = .ok i) : encode i = encodeFields 3#4 o x := by
  unfold decodeUopOp at h
  split_ifs at h with h1 h2 h3 h4
  · obtain ⟨a, v, rfl, rfl⟩ := decodeDww_ok_iff.mp h; rw [h1, encode]
  · obtain ⟨rfl, rfl⟩ := decodeBare_ok_iff.mp h; rw [h2, encode]
  · obtain ⟨rfl, rfl⟩ := decodeBare_ok_iff.mp h; rw [h3, encode]
  · obtain ⟨e, rfl, -, rfl⟩ := decodeEmit_ok_iff.mp h; rw [h4, encode]

/-- What a word of RSV 0 decodes to is decided by its CLASS (30_encoding R60, R68). -/
theorem decode_ok_iff {w : Label} :
    decode w = .ok i ↔ w.rsv = 0#8
      ∧ (w.cls = 0#4 ∧ decodeCommandOp w.op w.operand = .ok i ∨ w.cls = 1#4 ∧ decodeEventOp w.op w.operand = .ok i
        ∨ w.cls = 2#4 ∧ decodeInternalOp w.op w.operand = .ok i ∨ w.cls = 3#4 ∧ decodeUopOp w.op w.operand = .ok i) := by
  unfold decode
  split_ifs with hr h0 h1 h2 h3 <;> simp_all

end

/-- Settles O2: each CLASS gives back the word it read. -/
theorem encodeOfDecodeIsIdentity : Obligations.EncodeOfDecodeIsIdentity := by
  intro w i h
  obtain ⟨hr, h⟩ := decode_ok_iff.mp h
  have same : encode i = encodeFields w.cls w.op w.operand := by
    rcases h with ⟨hc, h⟩ | ⟨hc, h⟩ | ⟨hc, h⟩ | ⟨hc, h⟩ <;> rw [hc]
    · exact encode_of_decodeCommandOp h
    · exact encode_of_decodeEventOp h
    · exact encode_of_decodeInternalOp h
    · exact encode_of_decodeUopOp h
  rw [same, encodeFields_of w hr]

/-- Settles O1, label by label: the CLASS and OP written select the label's own decoder, which accepts its operand. -/
theorem decodeOfEncodeIsIdentity : Obligations.DecodeOfEncodeIsIdentity := by
  intro i hi
  rw [decode_ok_iff]
  cases i with
  | pinChange k lvl =>
    simpa [encode, decodeEventOp] using decodePinChange_ok_iff.mpr ⟨k, lvl, rfl, rfl⟩
  | dww a v => simpa [encode, decodeUopOp] using decodeDww_ok_iff.mpr ⟨a, v, rfl, rfl⟩
  | emit e => simpa [encode, decodeUopOp] using decodeEmit_ok_iff.mpr ⟨e, rfl, hi, rfl⟩
  | boot p | commission p | setTsLatch p => simp [encode, decodeCommandOp]
  | unlockDone | clearStatus => simp [encode, decodeCommandOp, decodeBare]
  | tickEdge | powerLoss => simp [encode, decodeEventOp, decodeBare]
  | tickDispatch | inputEntry | settleDone | uopStep => simp [encode, decodeInternalOp, decodeBare]
  | wpu | wpl => simp [encode, decodeUopOp, decodeBare]

/-- Settles O3: each word is the encoding of its operation. -/
theorem writtenOutWordsDecode : Obligations.WrittenOutWordsDecode :=
  ⟨decodeOfEncodeIsIdentity (.boot 0x251111120000) rfl, decodeOfEncodeIsIdentity .clearStatus rfl,
    decodeOfEncodeIsIdentity (.pinChange .inc true) rfl, decodeOfEncodeIsIdentity .uopStep rfl,
    decodeOfEncodeIsIdentity (.dww 0x0A 0x1112) rfl, decodeOfEncodeIsIdentity (.emit 2) rfl⟩

end Sys2Proof
end

section
/-! The words that decode are the opcode table's, less the reserved operand values (30_encoding R67, R68). -/

namespace Sys2Proof

open BitVec (allOnes and_append and_allOnes and_zero extractLsb'_append_extractLsb'
  extractLsb'_append_extractLsb'_eq_extractLsb')
open Machine (opcodeRows eventCodeOk_iff)

/-! ### A masked word is known by its masked parts -/

section
variable {a b c d n lo : Nat} {p p' : BitVec a} {q q' : BitVec b} {r r' : BitVec c} {t t' : BitVec d}

theorem and_append_eq_append_iff {x : BitVec (a + b)} :
    x &&& (p' ++ q') = p ++ q ↔ x.extractLsb' b a &&& p' = p ∧ x.extractLsb' 0 b &&& q' = q := by
  rw [← bits_append_inj, ← and_append, extractLsb'_append_extractLsb']

theorem slice_and_append_eq_append_iff {x : BitVec n} :
    x.extractLsb' lo (a + b) &&& (p' ++ q') = p ++ q
      ↔ x.extractLsb' (lo + b) a &&& p' = p ∧ x.extractLsb' lo b &&& q' = q := by
  rw [← bits_append_inj, ← and_append, extractLsb'_append_extractLsb'_eq_extractLsb' rfl]

theorem and_append₄_eq_append_iff {x : BitVec (a + b + c + d)} :
    x &&& (p' ++ q' ++ r' ++ t') = p ++ q ++ r ++ t
      ↔ x.extractLsb' (d + c + b) a &&& p' = p ∧ x.extractLsb' (d + c) b &&& q' = q ∧ x.extractLsb' d c &&& r' = r
        ∧ x.extractLsb' 0 d &&& t' = t := by
  rw [and_append_eq_append_iff, slice_and_append_eq_append_iff, slice_and_append_eq_append_iff, and_assoc, and_assoc]

theorem and_highMask_iff {x : BitVec (a + b)} : x &&& (allOnes a ++ 0#b) = 0#a ++ 0#b ↔ x.extractLsb' b a = 0#a := by
  rw [and_append_eq_append_iff, and_allOnes, and_zero, eq_self, and_true]

theorem and_lowMask_iff {x : BitVec (a + b)} : x &&& (0#a ++ allOnes b) = 0#a ++ q ↔ x.extractLsb' 0 b = q := by
  rw [and_append_eq_append_iff, and_allOnes, and_zero, eq_self, true_and]

end

/-- Of a word, field by field (30_encoding R60). -/
theorem Label.and_eq_encodeFields_iff {w : Label} {mc mo c o : BitVec 4} {mr : BitVec 8} {m x : BitVec 48} :
    w &&& (mc ++ mo ++ mr ++ m) = encodeFields c o x
      ↔ w.cls &&& mc = c ∧ w.op &&& mo = o ∧ w.rsv &&& mr = 0#8 ∧ w.operand &&& m = x :=
  and_append₄_eq_append_iff (a := 4) (b := 4) (c := 8) (d := 48)

/-! ### The rows of the table, by CLASS, OP and the OPERAND bits that must be 0 (30_encoding R67) -/

/-- The OPERAND bits PIN_CHANGE does not use: all but the level and the input index (30_encoding R63). -/
def pinUnused : BitVec 48 := allOnes 39 ++ 0#1 ++ allOnes 6 ++ 0#2

/-- The OPERAND bits DWW does not use (30_encoding R65). -/
def dwwUnused : BitVec 48 := allOnes 24 ++ 0#24

/-- The OPERAND bits EMIT does not use (30_encoding R65). -/
def emitUnused : BitVec 48 := allOnes 40 ++ 0#8

/-- A row's match and mask: CLASS, OP and RSV are fixed whole, OPERAND is 0 at the bits of `m`. -/
def opcodeRow (c o : BitVec 4) (m : BitVec 48) : Label × Label :=
  (encodeFields c o 0#48, allOnes 4 ++ allOnes 4 ++ allOnes 8 ++ m)

theorem opcodeRows_eq :
    opcodeRows =
      [opcodeRow 0 1 0, opcodeRow 0 2 (allOnes 48), opcodeRow 0 3 0, opcodeRow 0 4 0, opcodeRow 0 5 (allOnes 48),
        opcodeRow 1 1 (allOnes 48), opcodeRow 1 2 pinUnused, opcodeRow 1 3 (allOnes 48),
        opcodeRow 2 1 (allOnes 48), opcodeRow 2 2 (allOnes 48), opcodeRow 2 3 (allOnes 48), opcodeRow 2 4 (allOnes 48),
        opcodeRow 3 1 dwwUnused, opcodeRow 3 2 (allOnes 48), opcodeRow 3 3 (allOnes 48), opcodeRow 3 4 emitUnused] := by
  decide

theorem and_opcodeRow_iff {w : Label} {c o : BitVec 4} {m : BitVec 48} :
    w &&& (opcodeRow c o m).2 = (opcodeRow c o m).1
      ↔ w.rsv = 0#8 ∧ w.cls = c ∧ w.op = o ∧ w.operand &&& m = 0#48 := by
  rw [opcodeRow, Label.and_eq_encodeFields_iff, and_allOnes, and_allOnes, and_allOnes, and_left_comm (a := w.rsv = 0#8),
    and_left_comm (b := w.rsv = 0#8)]

/-- The low bits of a word are those of its OPERAND. -/
theorem Label.and_low_iff {w : Label} {m x : BitVec 48} :
    w &&& (0#4 ++ 0#4 ++ 0#8 ++ m) = encodeFields 0 0 x ↔ w.operand &&& m = x := by
  rw [Label.and_eq_encodeFields_iff]
  simp

/-! ### Which operands each decoder accepts, by the table's masks (30_encoding R67, R68) -/

section
variable {x : BitVec 48} {o : BitVec 4}

theorem Input.exists_code_iff (k : BitVec 2) : (∃ i : Input, k = i.code) ↔ k ≠ 3#2 := by
  constructor
  · rintro ⟨i, rfl⟩
    cases i <;> decide
  · intro h
    have some_code : ∀ k : BitVec 2, k = 3#2 ∨ k = Input.adv.code ∨ k = Input.inc.code ∨ k = Input.trig.code := by
      decide
    rcases (some_code k).resolve_left h with h | h | h
    · exact ⟨.adv, h⟩
    · exact ⟨.inc, h⟩
    · exact ⟨.trig, h⟩

theorem and_pinUnused_iff : x &&& pinUnused = 0#48 ↔ x.extractLsb' 9 39 = 0#39 ∧ x.extractLsb' 2 6 = 0#6 := by
  refine (and_append₄_eq_append_iff (a := 39) (b := 1) (c := 6) (d := 2) (p := 0#39) (q := 0#1) (r := 0#6)
    (t := 0#2)).trans ?_
  rw [and_allOnes, and_zero, and_allOnes, and_zero, eq_self, eq_self, true_and, and_true]

theorem and_three_iff : x &&& 3#48 = 3#48 ↔ x.extractLsb' 0 2 = 3#2 := and_lowMask_iff (a := 46) (b := 2) (q := 3#2)

theorem and_dwwUnused_iff : x &&& dwwUnused = 0#48 ↔ x.extractLsb' 24 24 = 0#24 :=
  and_highMask_iff (a := 24) (b := 24)

theorem and_emitUnused_iff : x &&& emitUnused = 0#48 ↔ x.extractLsb' 8 40 = 0#40 :=
  and_highMask_iff (a := 40) (b := 8)

theorem and_byte_iff {e : BitVec 8} : x &&& 0xFF#48 = 0#40 ++ e ↔ x.extractLsb' 0 8 = e :=
  and_lowMask_iff (a := 40) (b := 8)

theorem exists_decodePinChange_iff :
    (∃ i, decodePinChange x = .ok i) ↔ x &&& pinUnused = 0#48 ∧ x &&& 3#48 ≠ 3#48 := by
  rw [and_pinUnused_iff, Ne, and_three_iff, ← Ne, ← Input.exists_code_iff]
  simp only [decodePinChange_ok_iff, pinOperand_iff]
  constructor
  · rintro ⟨_, k, _, -, hh, -, hm, hk⟩
    exact ⟨⟨hh, hm⟩, k, hk⟩
  · rintro ⟨⟨hh, hm⟩, k, hk⟩
    exact ⟨_, k, _, rfl, hh, rfl, hm, hk⟩

theorem exists_decodeDww_iff : (∃ i, decodeDww x = .ok i) ↔ x &&& dwwUnused = 0#48 := by
  rw [and_dwwUnused_iff]
  simp [decodeDww_ok_iff, dwwOperand_iff]

theorem exists_decodeEmit_iff :
    (∃ i, decodeEmit x = .ok i) ↔ x &&& emitUnused = 0#48 ∧ (x &&& 0xFF#48 = 1#48 ∨ x &&& 0xFF#48 = 2#48) := by
  rw [and_emitUnused_iff, show 1#48 = 0#40 ++ 1#8 from rfl, show 2#48 = 0#40 ++ 2#8 from rfl, and_byte_iff,
    and_byte_iff]
  simp only [decodeEmit_ok_iff, emitOperand_iff, eventCodeOk_iff]
  constructor
  · rintro ⟨_, e, -, he, hu, rfl⟩
    exact ⟨hu, he⟩
  · rintro ⟨hu, he⟩
    exact ⟨_, _, rfl, he, hu, rfl⟩

theorem exists_decodeBare_iff {j : Instr} : (∃ i, decodeBare x j = .ok i) ↔ x = 0#48 := by
  simp [decodeBare_ok_iff]

theorem exists_decodeCommandOp_iff :
    (∃ i, decodeCommandOp o x = .ok i) ↔ o = 1#4 ∨ o = 2#4 ∧ x = 0#48 ∨ o = 3#4 ∨ o = 4#4 ∨ o = 5#4 ∧ x = 0#48 := by
  unfold decodeCommandOp
  split_ifs with h1 h2 h3 h4 h5 <;> simp [exists_decodeBare_iff, *]

theorem exists_decodeEventOp_iff :
    (∃ i, decodeEventOp o x = .ok i)
      ↔ o = 1#4 ∧ x = 0#48 ∨ o = 2#4 ∧ x &&& pinUnused = 0#48 ∧ x &&& 3#48 ≠ 3#48 ∨ o = 3#4 ∧ x = 0#48 := by
  unfold decodeEventOp
  split_ifs with h1 h2 h3 <;> simp [exists_decodeBare_iff, exists_decodePinChange_iff, *]

theorem exists_decodeInternalOp_iff :
    (∃ i, decodeInternalOp o x = .ok i) ↔ (o = 1#4 ∨ o = 2#4 ∨ o = 3#4 ∨ o = 4#4) ∧ x = 0#48 := by
  unfold decodeInternalOp
  split_ifs with h1 h2 h3 h4 <;> simp [exists_decodeBare_iff, *]

theorem exists_decodeUopOp_iff :
    (∃ i, decodeUopOp o x = .ok i)
      ↔ o = 1#4 ∧ x &&& dwwUnused = 0#48 ∨ o = 2#4 ∧ x = 0#48 ∨ o = 3#4 ∧ x = 0#48
        ∨ o = 4#4 ∧ x &&& emitUnused = 0#48 ∧ (x &&& 0xFF#48 = 1#48 ∨ x &&& 0xFF#48 = 2#48) := by
  unfold decodeUopOp
  split_ifs with h1 h2 h3 h4 <;> simp [exists_decodeBare_iff, exists_decodeDww_iff, exists_decodeEmit_iff, *]

end

/-- A row of the table matches, by RSV and CLASS. -/
theorem exists_opcodeRow_iff {w : Label} :
    (∃ r ∈ opcodeRows, w &&& r.2 = r.1) ↔ w.rsv = 0#8 ∧
      (w.cls = 0#4 ∧ (w.op = 1#4 ∨ w.op = 2#4 ∧ w.operand = 0#48 ∨ w.op = 3#4 ∨ w.op = 4#4
          ∨ w.op = 5#4 ∧ w.operand = 0#48)
        ∨ w.cls = 1#4 ∧ (w.op = 1#4 ∧ w.operand = 0#48 ∨ w.op = 2#4 ∧ w.operand &&& pinUnused = 0#48
          ∨ w.op = 3#4 ∧ w.operand = 0#48)
        ∨ w.cls = 2#4 ∧ (w.op = 1#4 ∨ w.op = 2#4 ∨ w.op = 3#4 ∨ w.op = 4#4) ∧ w.operand = 0#48
        ∨ w.cls = 3#4 ∧ (w.op = 1#4 ∧ w.operand &&& dwwUnused = 0#48 ∨ w.op = 2#4 ∧ w.operand = 0#48
          ∨ w.op = 3#4 ∧ w.operand = 0#48 ∨ w.op = 4#4 ∧ w.operand &&& emitUnused = 0#48)) := by
  simp only [opcodeRows_eq, List.exists_mem_cons_iff, List.not_mem_nil, false_and, exists_false, or_false,
    and_opcodeRow_iff, and_allOnes, BitVec.ofNat_eq_ofNat, and_zero, and_true, and_or_left, or_and_right, or_assoc]

/-- A word decodes, by RSV and CLASS. -/
theorem exists_decode_iff {w : Label} :
    (∃ i, decode w = .ok i) ↔ w.rsv = 0#8
      ∧ (w.cls = 0#4 ∧ (∃ i, decodeCommandOp w.op w.operand = .ok i)
        ∨ w.cls = 1#4 ∧ (∃ i, decodeEventOp w.op w.operand = .ok i)
        ∨ w.cls = 2#4 ∧ (∃ i, decodeInternalOp w.op w.operand = .ok i)
        ∨ w.cls = 3#4 ∧ ∃ i, decodeUopOp w.op w.operand = .ok i) := by
  simp only [decode_ok_iff, exists_and_left, exists_or]

/-- The table's PIN_CHANGE row, as the statement writes it. -/
theorem and_pinRow_iff {w : Label} :
    w &&& 0xFFFFFFFFFFFFFEFC = 0x1200000000000000
      ↔ w.rsv = 0#8 ∧ w.cls = 1#4 ∧ w.op = 2#4 ∧ w.operand &&& pinUnused = 0#48 :=
  and_opcodeRow_iff (c := 1) (o := 2) (m := pinUnused)

/-- The table's EMIT row, as the statement writes it. -/
theorem and_emitRow_iff {w : Label} :
    w &&& 0xFFFFFFFFFFFFFF00 = 0x3400000000000000
      ↔ w.rsv = 0#8 ∧ w.cls = 3#4 ∧ w.op = 4#4 ∧ w.operand &&& emitUnused = 0#48 :=
  and_opcodeRow_iff (c := 3) (o := 4) (m := emitUnused)

/-- Settles O4: RSV and CLASS select the rows, and in each CLASS the decoder accepts what its rows match, less the
reserved values. -/
theorem decodableWordsAreTheOpcodeTable : Obligations.DecodableWordsAreTheOpcodeTable := by
  intro w
  have three : w &&& 3 = 3 ↔ w.operand &&& 3#48 = 3#48 := Label.and_low_iff (m := 3#48) (x := 3#48)
  have one : w &&& 0xFF = 1 ↔ w.operand &&& 0xFF#48 = 1#48 := Label.and_low_iff (m := 0xFF#48) (x := 1#48)
  have two : w &&& 0xFF = 2 ↔ w.operand &&& 0xFF#48 = 2#48 := Label.and_low_iff (m := 0xFF#48) (x := 2#48)
  rw [exists_decode_iff, exists_opcodeRow_iff, and_pinRow_iff, and_emitRow_iff, three, Ne, one, Ne, two,
    exists_decodeCommandOp_iff, exists_decodeEventOp_iff, exists_decodeInternalOp_iff, exists_decodeUopOp_iff]
  by_cases hr : w.rsv = 0#8
  case neg => simp [hr]
  by_cases h0 : w.cls = 0#4
  · simp [hr, h0]
  by_cases h1 : w.cls = 1#4
  · by_cases ho : w.op = 2#4
    · by_cases hu : w.operand &&& pinUnused = 0#48 <;> simp [hr, h1, ho, hu]
    · simp [hr, h1, ho]
  by_cases h2 : w.cls = 2#4
  · simp [hr, h2]
  by_cases h3 : w.cls = 3#4
  · by_cases ho : w.op = 4#4
    · by_cases hu : w.operand &&& emitUnused = 0#48 <;> simp [hr, h3, ho, hu, or_iff_not_imp_left]
    · simp [hr, h3, ho]
  simp [h0, h1, h2, h3]

end Sys2Proof
end

section
/-! What a step does with an offered label word, and with a word on the command port (44_host R136, 60_exceptions
R147, 30_encoding R65, R68). -/

namespace Sys2Proof.Machine

variable {s : State} {w : Label} {i : Instr} {rest : List Offer}

theorem takeOffer_of {o : Offer} (h : s.offers = o :: rest) : s.takeOffer = { s with offers := rest } := by
  rw [State.takeOffer, h, List.tail_cons]

theorem decodeCommand_some (h : decode w = .ok i) (hc : w.cls = 0#4) : decodeCommand w = some i := by
  rw [decodeCommand, if_pos hc, h]

theorem decodeCommand_none (h : ¬∃ i, decode w = .ok i) : decodeCommand w = none := by
  unfold decodeCommand
  split
  · cases hd : decode w with
    | ok i => exact absurd ⟨i, hd⟩ h
    | error e => rfl
  · rfl

/-! ### A word that goes to the command port (44_host R136) -/

theorem step_port_runs (hp : nextAction s = portAction w s) (hr : s.CommandEnabled) (hd : decodeCommand w = some i) :
    step s = exec i s.takeOffer := by
  rw [step, hp, portAction, if_pos ((State.hostReady_iff s).mpr hr), hd]

theorem step_port_rejects (hp : nextAction s = portAction w s) (hr : s.CommandEnabled) (hd : decodeCommand w = none) :
    step s = .next (s.takeOffer.reject reasonReserved) := by
  rw [step, hp, portAction, if_pos ((State.hostReady_iff s).mpr hr), hd]

/-- While HOST_CMD is not enabled the block has a step of its own, and takes it. -/
theorem step_port_waits (hp : nextAction s = portAction w s) (hr : ¬s.CommandEnabled) :
    ∃ k, s.ownStep = some k ∧ step s = exec k.toInstr s := by
  obtain ⟨k, hk⟩ := Option.ne_none_iff_exists'.mp (mt (State.ownStep_none s).mp hr)
  exact ⟨k, hk, by rw [step, hp, portAction, if_neg (mt (State.hostReady_iff s).mp hr), ownAction, hk]⟩

/-! ### A label word, by its CLASS (30_encoding R65, R68) -/

theorem nextAction_label_command (h : s.offers = .label w :: rest) (hc : w.cls = 0#4) :
    nextAction s = portAction w s := by
  rw [nextAction, h]
  exact if_pos hc

theorem nextAction_label_decoded (h : s.offers = .label w :: rest) (hc : w.cls ≠ 0#4) (hd : decode w = .ok i) :
    nextAction s = runLabel i w s := by
  simp only [nextAction, h, labelAction, if_neg hc, hd]

theorem nextAction_label_reserved (h : s.offers = .label w :: rest) (hc : w.cls ≠ 0#4)
    (hd : ¬∃ i, decode w = .ok i) : nextAction s = .refuse .reservedLabel := by
  cases e : decode w with
  | ok i => exact absurd ⟨i, e⟩ hd
  | error x => simp only [nextAction, h, labelAction, if_neg hc, e]

/-- Settles O5: a CLASS 0 word goes to the port; a word of another CLASS runs, or is refused, by what it decodes to. -/
theorem stepRunsTheOfferedLabel : Obligations.StepRunsTheOfferedLabel := by
  intro s w rest h
  have taken := takeOffer_of h
  refine ⟨fun i hd => ?decodes, fun hd => ⟨fun hc => ?refused, fun hc hr => ?rejected, fun hc hr => ?waits⟩⟩
  case decodes =>
    have port (hi : i.labelClass = .command) : w.cls = 0#4 := (decode_command_iff hd).mp hi
    have other (hi : i.labelClass ≠ .command) : nextAction s = runLabel i w s :=
      nextAction_label_decoded h (mt (decode_command_iff hd).mpr hi) hd
    refine ⟨fun hi => ?_, fun hi hr => ?_, fun hi hr => ?_, fun hi => ?_⟩
    · rw [← taken]
      rcases hi with hi | hi <;> simp only [step, other (by simp [hi]), runLabel, hi]
    · rw [← taken]
      exact step_port_runs (nextAction_label_command h (port hi)) hr (decodeCommand_some hd (port hi))
    · exact step_port_waits (nextAction_label_command h (port hi)) hr
    · simp only [step, other (by simp [hi]), runLabel, hi]
  case refused => rw [step, nextAction_label_reserved h hc hd]
  case rejected =>
    rw [step_port_rejects (nextAction_label_command h hc) hr (decodeCommand_none hd), taken]
    rfl
  case waits => exact step_port_waits (nextAction_label_command h hc) hr

end Sys2Proof.Machine
end

section
/-! The display's words: which bits a glyph write reaches, which words the fields take, and what lights a segment
(40_display R77 to R79, R85). -/

namespace Sys2Proof.Machine

variable {m : SegMap} {b : Buffer} {p : Fin 6} {g : Glyph} {d : Display}

/-! ### A glyph write, segment by segment (40_display R79) -/

/-- A fold of segment writes leaves every bit that is none of its segments alone. -/
theorem foldl_writeSegment_bit_other (h : layoutOk m = true) {l : List (Fin 7)} {w n : Nat}
    (hn : ∀ x ∈ l, ¬(w = (segAt m p x).word ∧ n = (segAt m p x).bit)) :
    (l.foldl (writeSegment m b p g) d).bit b w n = d.bit b w n := by
  induction l generalizing d with
  | nil => rfl
  | cons x l ih =>
    obtain ⟨hx, hl⟩ := List.forall_mem_cons.mp hn
    calc (l.foldl (writeSegment m b p g) (writeSegment m b p g d x)).bit b w n
      _ = (writeSegment m b p g d x).bit b w n := ih hl
      _ = d.bit b w n := by rw [writeSegment_bit h, if_neg fun e => hx e.2]

/-- A fold of segment writes gives each of its segments the glyph's value: no later write reaches an earlier
segment's bit. -/
theorem foldl_writeSegment_bit_same (h : layoutOk m = true) {l : List (Fin 7)} {k : Fin 7} (hk : k ∈ l) :
    (l.foldl (writeSegment m b p g) d).bit b (segAt m p k).word (segAt m p k).bit = g.getLsbD k.val := by
  induction l generalizing d with
  | nil => exact absurd hk List.not_mem_nil
  | cons x l ih =>
    by_cases hl : k ∈ l
    · exact ih hl
    · obtain rfl : k = x := (List.mem_cons.mp hk).resolve_right hl
      have untouched : ∀ y ∈ l, ¬((segAt m p k).word = (segAt m p y).word ∧ (segAt m p k).bit = (segAt m p y).bit) :=
        fun y hy e => hl ((layoutOk_bit h e.1 e.2).2 ▸ hy)
      rw [List.foldl_cons, foldl_writeSegment_bit_other h untouched, writeSegment_bit h, if_pos ⟨rfl, rfl, rfl⟩]

theorem writeGlyph_bit_other (h : layoutOk m = true) {w n : Nat}
    (hn : ∀ x : Fin 7, ¬(w = (segAt m p x).word ∧ n = (segAt m p x).bit)) :
    (writeGlyph m b p g d).bit b w n = d.bit b w n :=
  foldl_writeSegment_bit_other h fun x _ => hn x

theorem writeGlyph_shows (h : layoutOk m = true) : (writeGlyph m b p g d).Shows m b p g :=
  fun k => foldl_writeSegment_bit_same h (mem_segments k)

theorem writeGlyph_shows_other (h : layoutOk m = true) {q : Fin 6} (hq : q ≠ p) {g' : Glyph} (hd : d.Shows m b q g') :
    (writeGlyph m b p g d).Shows m b q g' :=
  fun k => (writeGlyph_bit_other h fun _ e => hq (layoutOk_bit h e.1 e.2).1).trans (hd k)

/-- Settles O47: the layout keeps the positions' bits apart, so a glyph write reaches its own seven only. -/
theorem writeGlyphShowsItsGlyph : Obligations.WriteGlyphShowsItsGlyph := by
  intro m b p g d h
  refine ⟨writeGlyph_shows h, fun q hq g' => writeGlyph_shows_other h hq, fun w k => writeGlyph_bit_other h,
    fun b' w hb => writeGlyph_read_buffer m hb p g d w, ?controls⟩
  case controls => exact ⟨writeGlyph_bank .., writeGlyph_blink .., writeGlyph_lcdOn ..⟩

/-! ### The field words (40_display R77) -/

/-- Settles O48: a field is determined by its word, and the word is one of the display memory. -/
theorem fieldWordsAreDistinct : Obligations.FieldWordsAreDistinct := by
  intro m h
  have apart {f f' : Field} (hf : f ≠ f') : fieldWord m f ≠ fieldWord m f' := mt (fieldWord_inj h) hf
  exact ⟨apart (by decide), apart (by decide), apart (by decide), fun f => (layoutOk_bounds h f.ones 0).1⟩

/-! ### The visible image (40_display R85) -/

section Lit

variable (φ : BlinkPhase) (w k : Nat)

theorem Display.lit_lcdOff (h : d.lcdOn = false) : d.lit φ w k = false := by
  rw [Display.lit, h, Bool.false_and]

theorem Display.lit_none (h : d.lcdOn = true) (hb : d.blink = .none) : d.lit φ w k = d.bit d.bank w k := by
  simp only [Display.lit, Display.bit, h, hb, Bool.true_and]

theorem Display.lit_perSegment (h : d.lcdOn = true) (hb : d.blink = .perSegment) :
    d.lit φ w k = (d.bit d.bank w k && !(decide (φ = .off) && d.bit .alternate w k)) := by
  simp only [Display.lit, Display.bit, h, hb, Bool.true_and]

theorem Display.lit_allSegments (h : d.lcdOn = true) (hb : d.blink = .allSegments) :
    d.lit φ w k = (d.bit d.bank w k && decide (φ = .on)) := by
  simp only [Display.lit, Display.bit, h, hb, Bool.true_and]

theorem Display.lit_autoAlternate (h : d.lcdOn = true) (hb : d.blink = .autoAlternate) :
    d.lit φ w k = if φ = .on then d.bit .primary w k else d.bit .alternate w k := by
  simp only [Display.lit, Display.bit, h, hb, Bool.true_and]

end Lit

/-- Settles O49: the lamp's equation for each blink mode, taken in each phase. -/
theorem visibleImageFollowsTheBlinkMode : Obligations.VisibleImageFollowsTheBlinkMode := by
  intro d w k
  refine ⟨fun off φ => Display.lit_lcdOff φ w k off, fun on hb φ => Display.lit_none φ w k on hb,
    fun on hb => ⟨?segmentOn, ?segmentOff⟩, fun on hb => ⟨?allOn, ?allOff⟩, fun on hb => ⟨?autoOn, ?autoOff⟩⟩
  case segmentOn => simp [Display.lit_perSegment _ w k on hb, Display.bit]
  case segmentOff => simp [Display.lit_perSegment _ w k on hb, Display.bit]
  case allOn => simp [Display.lit_allSegments _ w k on hb, Display.bit]
  case allOff => simp [Display.lit_allSegments _ w k on hb]
  case autoOn => exact Display.lit_autoAlternate .on w k on hb
  case autoOff => exact Display.lit_autoAlternate .off w k on hb

end Sys2Proof.Machine
end

section
/-! The word cache: bit by bit, what a cache word holds and what a word shows (40_display R86, R87, R89). -/

namespace Sys2Proof.Machine

variable {m : SegMap}

/-- A fold that ORs bits into a word: bit `n` is set at the end if it was at the start or some element sets it. -/
theorem foldl_getLsbD_of_or {α : Type} {width n : Nat} {f : BitVec width → α → BitVec width} {sets : α → Bool}
    (hf : ∀ x a, (f x a).getLsbD n = (x.getLsbD n || sets a)) (l : List α) (x : BitVec width) :
    (l.foldl f x).getLsbD n = (x.getLsbD n || l.any sets) := by
  induction l generalizing x with
  | nil => simp
  | cons a l ih => rw [List.foldl_cons, ih, hf, List.any_cons, Bool.or_assoc]

/-- One conditional OR of a single bit, as a cache segment and a glyph read make it. -/
theorem getLsbD_ite_or_bit {width j n : Nat} (hj : j < width) (c : Bool) (x : BitVec width) :
    (if c then x ||| (1#width <<< j) else x).getLsbD n = (x.getLsbD n || (decide (j = n) && c)) := by
  cases c <;> simp [← BitVec.twoPow_eq, BitVec.getLsbD_twoPow, hj]

/-- Among the seven segments exactly one is `k`. -/
theorem segments_any_eq (k : Fin 7) (c : Fin 7 → Bool) : (segments.any fun x => decide (x = k) && c x) = c k := by
  rw [Bool.eq_iff_iff]
  simp [mem_segments]

/-! ### Reading a word back (40_display R89) -/

theorem glyphIn_getLsbD (m : SegMap) (p : Fin 6) (w : Word) (k : Fin 7) :
    (glyphIn m p w).getLsbD k.val = w.getLsbD (segAt m p k).bit := by
  have step (x : Glyph) (s : Fin 7) := getLsbD_ite_or_bit (n := k.val) s.isLt (w.getLsbD (segAt m p s).bit) x
  simp only [Fin.val_inj] at step
  rw [glyphIn, foldl_getLsbD_of_or step, segments_any_eq k fun s => w.getLsbD (segAt m p s).bit]
  simp

theorem glyphIn_eq {p : Fin 6} {w : Word} {g : Glyph}
    (h : ∀ k : Fin 7, w.getLsbD (segAt m p k).bit = g.getLsbD k.val) : glyphIn m p w = g :=
  BitVec.eq_of_getLsbD_eq fun i hi => (glyphIn_getLsbD m p w ⟨i, hi⟩).trans (h ⟨i, hi⟩)

/-! ### The bits of a cache word (40_display R86) -/

theorem Field.tens_ne_ones (f : Field) : f.tens ≠ f.ones := by cases f <;> decide

/-- Segments of one field are told apart by their bit alone: both positions lie on the field's word. -/
theorem layoutOk_field_bit (h : layoutOk m = true) {f : Field} {p q : Fin 6} (hp : p = f.tens ∨ p = f.ones)
    (hq : q = f.tens ∨ q = f.ones) {k l : Fin 7} : (segAt m p k).bit = (segAt m q l).bit ↔ p = q ∧ k = l := by
  obtain ⟨tens, ones⟩ := layoutOk_field h f
  have onWord {r : Fin 6} (hr : r = f.tens ∨ r = f.ones) (x : Fin 7) : (segAt m r x).word = fieldWord m f := by
    rw [layoutOk_word h]
    rcases hr with rfl | rfl
    · exact tens
    · exact ones
  refine ⟨layoutOk_bit h ((onWord hp k).trans (onWord hq l).symm), ?_⟩
  rintro ⟨rfl, rfl⟩
  rfl

theorem cacheSegment_getLsbD (h : layoutOk m = true) (f : Field) (tens ones : Glyph) (n : Nat) (w : Word) (x : Fin 7) :
    (cacheSegment m f tens ones w x).getLsbD n =
      (w.getLsbD n || ((decide ((segAt m f.tens x).bit = n) && tens.getLsbD x.val)
        || (decide ((segAt m f.ones x).bit = n) && ones.getLsbD x.val))) := by
  rw [cacheSegment, getLsbD_ite_or_bit (layoutOk_bounds h f.ones x).2, getLsbD_ite_or_bit (layoutOk_bounds h f.tens x).2,
    Bool.or_assoc]

theorem cacheWord_getLsbD (h : layoutOk m = true) (f : Field) (v n : Nat) :
    (cacheWord m f v).getLsbD n =
      segments.any fun x => (decide ((segAt m f.tens x).bit = n) && (digitGlyph (v / 10)).getLsbD x.val)
        || (decide ((segAt m f.ones x).bit = n) && (digitGlyph (v % 10)).getLsbD x.val) := by
  rw [cacheWord, foldl_getLsbD_of_or (cacheSegment_getLsbD h f _ _ n)]
  simp

theorem glyphIn_cacheWord_tens (h : layoutOk m = true) (f : Field) (v : Nat) :
    glyphIn m f.tens (cacheWord m f v) = digitGlyph (v / 10) :=
  glyphIn_eq fun k => by
    simp only [cacheWord_getLsbD h, layoutOk_field_bit h (.inl rfl) (.inl rfl), layoutOk_field_bit h (.inr rfl) (.inl rfl),
      f.tens_ne_ones.symm, true_and, false_and, decide_false, Bool.false_and, Bool.or_false]
    exact segments_any_eq k fun x => (digitGlyph (v / 10)).getLsbD x.val

theorem glyphIn_cacheWord_ones (h : layoutOk m = true) (f : Field) (v : Nat) :
    glyphIn m f.ones (cacheWord m f v) = digitGlyph (v % 10) :=
  glyphIn_eq fun k => by
    simp only [cacheWord_getLsbD h, layoutOk_field_bit h (.inl rfl) (.inr rfl), layoutOk_field_bit h (.inr rfl) (.inr rfl),
      f.tens_ne_ones, true_and, false_and, decide_false, Bool.false_and, Bool.false_or]
    exact segments_any_eq k fun x => (digitGlyph (v % 10)).getLsbD x.val

/-! ### The built cache (40_display R87) -/

theorem cacheWords_wordFor_sec (m : SegMap) {v : Nat} (hv : v < 60) :
    (cacheWords m).wordFor .sec v = cacheWord m .sec v := by simp [WordCache.wordFor, cacheWords, hv]

theorem cacheWords_wordFor_min (m : SegMap) {v : Nat} (hv : v < 60) :
    (cacheWords m).wordFor .min v = cacheWord m .min v := by simp [WordCache.wordFor, cacheWords, hv]

theorem cacheWords_wordFor_hr (m : SegMap) {v : Nat} (hv : v < 24) :
    (cacheWords m).wordFor .hr v = cacheWord m .hr v := by simp [WordCache.wordFor, cacheWords, hv]

/-- Settles O46: the cache holds the field's word, whose bits at each position are that digit's segments. -/
theorem cacheWordsShowTheirValue : Obligations.CacheWordsShowTheirValue := by
  intro m f v h hv
  refine ⟨?_, glyphIn_cacheWord_tens h f v, glyphIn_cacheWord_ones h f v⟩
  cases f with
  | sec => exact cacheWords_wordFor_sec m hv
  | min => exact cacheWords_wordFor_min m hv
  | hr => exact cacheWords_wordFor_hr m hv

end Sys2Proof.Machine
end

section
/-! The calendar: a year's days lie between its first day and the next year's, and the months follow each other
(41_engine R109, R110). -/

namespace Sys2Proof.Machine

/-- The days before month mm + 1 are those before month mm and the month's own. -/
theorem cumulativeDays_succ {mm : Nat} (h1 : 1 ≤ mm) (h12 : mm < 12) :
    cumulativeDays.getD mm 0 = cumulativeDays.getD (mm - 1) 0 + monthDays.getD (mm - 1) 0 := by
  revert h1
  revert mm
  decide

theorem monthDays_pos {mm : Nat} (h1 : 1 ≤ mm) (h12 : mm ≤ 12) : 0 < monthDays.getD (mm - 1) 0 := by
  interval_cases mm <;> decide

/-- No date of a valid month lies past day 365 of its year, or day 366 where February has 29. -/
theorem cumulativeDays_add_daysInMonth_le {mm : Nat} (h1 : 1 ≤ mm) (h12 : mm ≤ 12) :
    cumulativeDays.getD (mm - 1) 0 + monthDays.getD (mm - 1) 0 ≤ 365 := by
  interval_cases mm <;> decide

theorem daysInMonth_eq (yy mm : Nat) :
    daysInMonth yy mm = monthDays.getD (mm - 1) 0 + if mm = 2 ∧ yy % 4 = 0 then 1 else 0 := by
  simp only [daysInMonth, leapYear_iff]
  split
  case isTrue h => rw [h.1]; rfl
  case isFalse => rfl

theorem rtcDays_eq (yy mm dd : Nat) :
    rtcDays yy mm dd = 365 * yy + (yy + 3) / 4 + cumulativeDays.getD (mm - 1) 0
      + (if 2 < mm ∧ yy % 4 = 0 then 1 else 0) + dd - 1 := by
  simp only [rtcDays, leapYear_iff]

/-- The RTC day of a date lies in the date's year: from the year's first day on, and before the next year's. -/
theorem rtcDays_in_year {yy mm dd : Nat} (h1 : 1 ≤ mm) (h12 : mm ≤ 12) (hd : 1 ≤ dd) (hm : dd ≤ daysInMonth yy mm) :
    365 * yy + (yy + 3) / 4 ≤ rtcDays yy mm dd ∧ rtcDays yy mm dd < 365 * (yy + 1) + (yy + 4) / 4 := by
  have hyear := cumulativeDays_add_daysInMonth_le h1 h12
  rw [daysInMonth_eq] at hm
  rw [rtcDays_eq]
  split at hm <;> split <;> omega

/-- Settles O27: the midpoint is the first day of year 50, and the century ends with year 99. -/
theorem midpointIsTheYearTest : Obligations.MidpointIsTheYearTest := by
  intro p hp
  obtain ⟨hy, hm1, hm12, hd1, hd, -⟩ := validTs_range hp
  have hyear := rtcDays_in_year hm1 hm12 hd1 hd
  omega

/-- Settles O28: within a month the day counts; from month to month the days before it do; from year to year the year's
own days. -/
theorem rtcDaysCountsCalendarDays : Obligations.RtcDaysCountsCalendarDays := by
  refine ⟨rfl, fun yy mm dd _ _ _ hd _ => ?day, fun yy mm _ h1 h12 => ?month, fun yy _ => ?year⟩
  case day =>
    rw [rtcDays_eq, rtcDays_eq]
    omega
  case month =>
    have hnext := cumulativeDays_succ h1 h12
    have hpos := monthDays_pos h1 (Nat.le_of_lt h12)
    rw [rtcDays_eq, rtcDays_eq, daysInMonth_eq, Nat.add_sub_cancel (n := mm) (m := 1), hnext]
    split <;> split <;> split <;> omega
  case year =>
    have hdec : cumulativeDays.getD (12 - 1) 0 = 334 := rfl
    have hjan : cumulativeDays.getD (1 - 1) 0 = 0 := rfl
    rw [rtcDays_eq, rtcDays_eq, hdec, hjan]
    split <;> split <;> omega

end Sys2Proof.Machine
end

section
/-! What the page painters leave on the display (40_display R80, R90, R91, R93), and that the set-up of COUNTING lights
segments only. -/

namespace Sys2Proof.Machine

variable {m : SegMap} {b : Buffer} {p : Fin 6} {g : Glyph} {d : Display}

/-! ### A page is painted position by position -/

theorem Display.Shows.congr {d' : Display} (h : d.Shows m b p g) (hd : ∀ w, d'.read b w = d.read b w) :
    d'.Shows m b p g :=
  fun k => by rw [hd]; exact h k

theorem writeGlyph_shows_buffer {b' : Buffer} (hb : b ≠ b') {q : Fin 6} {g' : Glyph} (h : d.Shows m b p g) :
    (writeGlyph m b' q g' d).Shows m b p g :=
  h.congr fun w => writeGlyph_read_buffer m hb q g' d w

/-- A fold that paints one position per element shows at each position what its own element painted, if no other
element's paint reaches it. -/
theorem foldl_shows {f : Display → Fin 6 → Display} (hf : ∀ d, (f d p).Shows m b p g)
    (hother : ∀ d q, p ≠ q → d.Shows m b p g → (f d q).Shows m b p g) {l : List (Fin 6)} (hp : p ∈ l) (d : Display) :
    (l.foldl f d).Shows m b p g := by
  have keeps (l : List (Fin 6)) (d : Display) (hd : d.Shows m b p g) : (l.foldl f d).Shows m b p g := by
    induction l generalizing d with
    | nil => exact hd
    | cons q l ih =>
      by_cases hq : p = q
      · exact ih _ (hq ▸ hf d)
      · exact ih _ (hother d q hq hd)
  induction l generalizing d with
  | nil => exact absurd hp List.not_mem_nil
  | cons q l ih =>
    rcases List.mem_cons.mp hp with rfl | hl
    · exact keeps l _ (hf d)
    · exact ih hl _

theorem showPrimary_read (bl : BlinkMode) (d : Display) (b : Buffer) (w : Nat) :
    (showPrimary bl d).read b w = d.read b w := by cases b <;> rfl

theorem showPrimary_controls (bl : BlinkMode) (d : Display) : (showPrimary bl d).Controls .primary bl true :=
  ⟨rfl, rfl, rfl⟩

/-! ### The day page and the terminal page (40_display R91, R93) -/

theorem paintDayPage_shows (h : layoutOk m = true) (n : Nat) (d : Display) (p : Fin 6) :
    (paintDayPage m n d).Shows m .alternate p (dayGlyph n p) :=
  foldl_shows (f := fun d p => writeGlyph m .alternate p (dayGlyph n p) d) (fun _ => writeGlyph_shows h)
    (fun _ _ hq => writeGlyph_shows_other h hq) (mem_positions p) d

theorem paintDayPage_dayPage (h : layoutOk m = true) (n : Nat) (d : Display) : (paintDayPage m n d).DayPage m n := by
  intro p
  have hp := paintDayPage_shows h n d p
  unfold dayGlyph at hp
  refine ⟨fun hlit => ?_, fun hdark => ?_⟩
  · rwa [if_pos hlit] at hp
  · rwa [if_neg (by omega)] at hp

theorem Display.DayPage.congr {d' : Display} {n : Nat} (h : d.DayPage m n)
    (hd : ∀ w, d'.read .alternate w = d.read .alternate w) : d'.DayPage m n := by
  intro p
  obtain ⟨hlit, hdark⟩ := h p
  exact ⟨fun hp => (hlit hp).congr hd, fun hp => (hdark hp).congr hd⟩

theorem paintDayPage_controls {bank : Buffer} {bl : BlinkMode} {on : Bool} (n : Nat) (h : d.Controls bank bl on) :
    (paintDayPage m n d).Controls bank bl on := by
  simpa [Display.Controls, paintDayPage, positions] using h

theorem paintTerminal_terminalPage (h : layoutOk m = true) (d : Display) : (paintTerminal m d).TerminalPage m := by
  refine ⟨fun p => ⟨?nine, ?dark⟩, showPrimary_controls _ _⟩
  case nine =>
    refine (foldl_shows (fun _ => ?_) (fun _ q hq hd => ?_) (mem_positions p) d).congr fun w => showPrimary_read _ _ _ w
    · exact writeGlyph_shows_buffer (by decide) (writeGlyph_shows h)
    · exact writeGlyph_shows_buffer (by decide) (writeGlyph_shows_other h hq hd)
  case dark =>
    refine (foldl_shows (fun _ => ?_) (fun _ q hq hd => ?_) (mem_positions p) d).congr fun w => showPrimary_read _ _ _ w
    · exact writeGlyph_shows h
    · exact writeGlyph_shows_other h hq (writeGlyph_shows_buffer (by decide) hd)

/-! ### The time page (40_display R86, R90) -/

/-- Both positions of a field lie on its word. -/
theorem fieldWord_of_position (h : layoutOk m = true) {f : Field} (hp : p = f.tens ∨ p = f.ones) (k : Fin 7) :
    (segAt m p k).word = fieldWord m f := by
  obtain ⟨tens, ones⟩ := layoutOk_field h f
  rw [layoutOk_word h]
  rcases hp with rfl | rfl
  · exact tens
  · exact ones

/-- A buffer that holds a field's cache word shows the field's two digits. -/
theorem shows_of_cacheWord (h : layoutOk m = true) {f : Field} {v : Nat}
    (hd : d.read b (fieldWord m f) = cacheWord m f v) :
    d.Shows m b f.ones (digitGlyph (v % 10)) ∧ d.Shows m b f.tens (digitGlyph (v / 10)) := by
  constructor <;> intro k
  · rw [fieldWord_of_position h (.inr rfl), hd, ← glyphIn_getLsbD, glyphIn_cacheWord_ones h]
  · rw [fieldWord_of_position h (.inl rfl), hd, ← glyphIn_getLsbD, glyphIn_cacheWord_tens h]

theorem Display.HoldsTime.timePage (h : layoutOk m = true) {sec min hr : Nat} (hs : sec < 60) (hm : min < 60)
    (hh : hr < 24) (hd : d.HoldsTime m (cacheWords m) sec min hr) : d.TimePage m sec min hr := by
  obtain ⟨dsec, dmin, dhr⟩ := hd
  rw [cacheWords_wordFor_sec m hs] at dsec
  rw [cacheWords_wordFor_min m hm] at dmin
  rw [cacheWords_wordFor_hr m hh] at dhr
  obtain ⟨s0, s1⟩ := shows_of_cacheWord h dsec
  obtain ⟨m0, m1⟩ := shows_of_cacheWord h dmin
  obtain ⟨h0, h1⟩ := shows_of_cacheWord h dhr
  exact ⟨s0, s1, m0, m1, h0, h1⟩

/-! ### The set-up of COUNTING (41_engine R107) -/

/-- A cache word has no bit outside its field's segments. -/
theorem cacheWord_onlySegments (h : layoutOk m = true) (f : Field) (v : Nat) {k : Nat}
    (hk : ∀ (p : Fin 6) (x : Fin 7), ¬(fieldWord m f = (segAt m p x).word ∧ k = (segAt m p x).bit)) :
    (cacheWord m f v).getLsbD k = false := by
  have away {p : Fin 6} (hp : p = f.tens ∨ p = f.ones) (x : Fin 7) : (segAt m p x).bit ≠ k :=
    fun e => hk p x ⟨(fieldWord_of_position h hp x).symm, e.symm⟩
  simp [cacheWord_getLsbD h, away]

theorem fieldWrite_onlySegments (h : layoutOk m = true) {c : WordCache} {f : Field} {v : Nat}
    (hc : c.wordFor f v = cacheWord m f v) (hd : d.OnlySegments m) : (fieldWrite m c b f v d).OnlySegments m := by
  unfold fieldWrite
  rw [hc]
  exact Display.OnlySegments_write hd fun _ => cacheWord_onlySegments h f v

theorem countingDisplay_onlySegments (h : layoutOk m = true) {sec min hr : Nat} (hs : sec < 60) (hm : min < 60)
    (hh : hr < 24) (hd : d.OnlySegments m) : (countingDisplay (cacheWords m) sec min hr m d).OnlySegments m :=
  blankBuffer_onlySegments
    (fieldWrite_onlySegments h (cacheWords_wordFor_hr m hh)
      (fieldWrite_onlySegments h (cacheWords_wordFor_min m hm)
        (fieldWrite_onlySegments h (cacheWords_wordFor_sec m hs) (showPrimary_onlySegments _ hd)))) _

theorem countingDisplay_controls (c : WordCache) (sec min hr : Nat) (m : SegMap) (d : Display) :
    (countingDisplay c sec min hr m d).Controls .primary .none true := by
  simp [Display.Controls, countingDisplay, blankBuffer, writeBlank, positions, paintTimePage, fieldWrite, showPrimary,
    displayOn, selectDisplayedBuffer, setBlinkMode]

end Sys2Proof.Machine
end

section
/-! The tick step: outside COUNTING, down by a second, up by a second, and over midnight (41_engine R96 to R105). -/

namespace Sys2Proof.Machine

variable {s : State}

theorem exec_tickDispatch (h : s.TickEnabled) : exec .tickDispatch s = .next (dispatchTick s) :=
  whenEnabled_of (s.ownStep_tickDispatch.mpr h) _

/-- Settles O23: only COUNTING has anything to do on a tick. -/
theorem tickOutsideCountingOnlyClears : Obligations.TickOutsideCountingOnlyClears := by
  intro s h he
  rw [exec_tickDispatch h, dispatchTick_other he]

/-! ### The countdown (41_engine R98, R99) -/

theorem tickDown_zero (h : s.totalSeconds = 0) : tickDown s = enterUnlocking s :=
  if_pos (s.timeZero_iff.mpr h)

theorem tickDown_pos (h : 0 < s.totalSeconds) : tickDown s = unlockIfZero (borrowSecond s) :=
  if_neg (mt s.timeZero_iff.mp (Nat.ne_of_gt h))

/-- The test at a countdown tick's end: it unlocks at zero, and only there. -/
theorem unlockIfZero_cases (s : State) :
    (s.totalSeconds = 0 ∧ unlockIfZero s = enterUnlocking s) ∨ (0 < s.totalSeconds ∧ unlockIfZero s = s) := by
  unfold unlockIfZero
  split
  case isTrue h => exact .inl ⟨s.timeZero_iff.mp h, rfl⟩
  case isFalse h => exact .inr ⟨Nat.pos_of_ne_zero (mt s.timeZero_iff.mpr h), rfl⟩

/-- What the unlock test leaves: the time and the display as they are, and the state and the event by the time. -/
theorem unlockIfZero_spec (s : State) :
    (unlockIfZero s).totalSeconds = s.totalSeconds ∧ ((unlockIfZero s).TimeLegal ↔ s.TimeLegal)
      ∧ (unlockIfZero s).display = s.display
      ∧ (0 < s.totalSeconds → (unlockIfZero s).eng = s.eng ∧ (unlockIfZero s).uq = s.uq)
      ∧ (s.totalSeconds = 0 →
        (unlockIfZero s).eng = .unlocking ∧ (unlockIfZero s).uq = s.uq ++ [.emit eventUnlock]) := by
  rcases unlockIfZero_cases s with ⟨hz, e⟩ | ⟨hp, e⟩ <;> rw [e]
  · exact ⟨rfl, Iff.rfl, rfl, fun hp => absurd hz (Nat.ne_of_gt hp), fun _ => ⟨rfl, rfl⟩⟩
  · exact ⟨rfl, Iff.rfl, rfl, fun _ => ⟨rfl, rfl⟩, fun hz => absurd hz (Nat.ne_of_gt hp)⟩

/-- The decrement stores into the primary buffer only. -/
theorem borrowSecond_display (s : State) :
    (borrowSecond s).display = { s.display with primary := (borrowSecond s).display.primary } :=
  congrArg State.display (borrowSecond_frame s)

/-- The decrement leaves the engine and the queue to the unlock test. -/
theorem borrowSecond_engine (s : State) : (borrowSecond s).eng = s.eng ∧ (borrowSecond s).uq = s.uq :=
  ⟨by rw [borrowSecond_frame], by rw [borrowSecond_frame]⟩

/-- While no borrow happens, the decrement stores the one word of the seconds. -/
theorem borrowSecond_stores (h : 0 < s.sec.toNat) :
    (borrowSecond s).display =
      s.display.write .primary (fieldWord s.params.segMap .sec) (s.cache.wordFor .sec (s.sec.toNat - 1)) := by
  rw [borrowSecond_short h, ← toNat_dec ((toNat_pos _).mpr h)]
  rfl

/-- A countdown tick with time left: the decrement takes the second, and the unlock test adds only its state and its
event. -/
theorem tickDown_second (hl : s.TimeLegal) (hpos : 0 < s.totalSeconds) :
    (tickDown s).totalSeconds + 1 = s.totalSeconds ∧ (tickDown s).TimeLegal
      ∧ (tickDown s).display = (borrowSecond s).display
      ∧ (0 < (tickDown s).totalSeconds → (tickDown s).eng = s.eng ∧ (tickDown s).uq = s.uq)
      ∧ ((tickDown s).totalSeconds = 0 →
        (tickDown s).eng = .unlocking ∧ (tickDown s).uq = s.uq ++ [.emit eventUnlock]) := by
  obtain ⟨time, legal⟩ := borrowSecond_time hl hpos
  obtain ⟨hsum, hlegal, hdisplay, hrun, hstop⟩ := unlockIfZero_spec (borrowSecond s)
  obtain ⟨heng, huq⟩ := borrowSecond_engine s
  rw [tickDown_pos hpos, hsum, hlegal, ← heng, ← huq]
  exact ⟨time, legal, hdisplay, hrun, hstop⟩

/-- Settles O22: the tick queues onto an empty queue. -/
theorem countdownOfZeroUnlocks : Obligations.CountdownOfZeroUnlocks := by
  intro s h he hm hz
  have huq : s.uq = [] := h.1.1
  rw [exec_tickDispatch h, dispatchTick_down he hm, tickDown_zero (s := { s with tickIfg := false }) hz,
    enterUnlocking_eq]
  simp only [huq, List.nil_append]
  rfl

/-- Settles O21: the tick on the state with its flag cleared, where the queue is empty. -/
theorem countdownTickTakesOneSecond : Obligations.CountdownTickTakesOneSecond := by
  intro s h he hm hl hpos
  obtain ⟨⟨huq, -⟩, -⟩ := id h
  refine ⟨_, exec_tickDispatch h, ?_⟩
  rw [dispatchTick_down he hm]
  have frame := tickDown_frame { s with tickIfg := false }
  obtain ⟨time, legal, hdisplay, hrun, hstop⟩ := tickDown_second (s := { s with tickIfg := false }) hl hpos
  have primary := borrowSecond_display { s with tickIfg := false }
  have stores := borrowSecond_stores (s := { s with tickIfg := false })
  have words w := borrowSecond_words { s with tickIfg := false } (w := w)
  rw [← hdisplay] at primary stores
  simp only [← hdisplay] at words
  generalize tickDown { s with tickIfg := false } = t at *
  refine ⟨?_, time, legal, ?_, ?_, stores, words⟩
  · exact frame.trans (by rw [primary])
  · simpa only [he, huq] using hrun
  · simpa only [huq, List.nil_append, eventUnlock] using hstop

/-! ### The page rotation (41_engine R104) -/

/-- Each page's BANK and LCD_ON. -/
abbrev Display.PageControls (bank : Buffer) (p : Page) (d : Display) : Prop :=
  (p = .time → d.bank = .primary ∧ d.lcdOn = true) ∧ (p = .days → d.bank = .alternate ∧ d.lcdOn = true)
    ∧ (p = .blank → d.bank = bank ∧ d.lcdOn = false)

theorem showPage_pageControls (p : Page) (d : Display) : (showPage p d).PageControls d.bank p := by
  cases p with
  | time => exact ⟨fun _ => ⟨rfl, rfl⟩, nofun, nofun⟩
  | days => exact ⟨nofun, fun _ => ⟨rfl, rfl⟩, nofun⟩
  | blank => exact ⟨nofun, nofun, fun _ => ⟨rfl, rfl⟩⟩

/-- A page is shown by BANK and LCD_ON alone. -/
theorem showPage_frame (p : Page) (d : Display) :
    showPage p d = { d with bank := (showPage p d).bank, lcdOn := (showPage p d).lcdOn } := by
  cases p <;> rfl

theorem showPage_primary (p : Page) (d : Display) : (showPage p d).primary = d.primary := by cases p <;> rfl

theorem showPage_blink (p : Page) (d : Display) : (showPage p d).blink = d.blink := by cases p <;> rfl

theorem State.nextPage_dayZero (h : s.days = 0) : s.nextPage = .time := if_pos h

theorem State.nextPage_turns (h : s.days ≠ 0) : s.nextPage = s.page.next := if_neg h

/-- TIME, DAYS, BLANK in turn. -/
theorem Page.next_turns (p : Page) :
    (p = .time → p.next = .days) ∧ (p = .days → p.next = .blank) ∧ (p = .blank → p.next = .time) :=
  ⟨fun h => h ▸ rfl, fun h => h ▸ rfl, fun h => h ▸ rfl⟩

/-! ### The count-up tick short of midnight (41_engine R102) -/

/-- While the seconds do not carry, the tick stores the one word of the seconds. -/
theorem showSec_stores (hl : s.TimeLegal) (h : s.sec.toNat ≠ 59) :
    (s.showSec (s.sec + 1)).display =
      s.display.write .primary (fieldWord s.params.segMap .sec) (s.cache.wordFor .sec (s.sec.toNat + 1)) := by
  have hlt : s.sec.toNat < 59 := Nat.lt_of_le_of_ne hl.1 h
  have hnext : (s.sec + 1).toNat = s.sec.toNat + 1 := 
    BitVec.toNat_add_of_lt (Nat.lt_trans (Nat.succ_lt_succ hlt) (by decide : 60 < 2 ^ 6))
  rw [← hnext]
  rfl

/-- A page rotation writes PAGE, BANK and LCD_ON; PAGE by the day, and the two by PAGE. -/
theorem pageRotate_spec (s : State) :
    pageRotate s = { s with
        page := (pageRotate s).page
        display := { s.display with bank := (pageRotate s).display.bank, lcdOn := (pageRotate s).display.lcdOn } }
      ∧ (s.days = 0 → (pageRotate s).page = .time) ∧ (s.days ≠ 0 → (pageRotate s).page = s.page.next)
      ∧ (pageRotate s).display.PageControls s.display.bank (pageRotate s).page := by
  refine ⟨?frame, State.nextPage_dayZero, State.nextPage_turns, showPage_pageControls _ _⟩
  case frame =>
    rw [pageRotate_eq]
    exact congrArg (fun d => { s with page := s.nextPage, display := d }) (showPage_frame _ _)

/-- A page rotation of a state that differs from s in the time of day and the primary buffer. -/
theorem pageRotate_of_time {r : State}
    (h : r = { s with
      sec := r.sec, min := r.min, hr := r.hr, display := { s.display with primary := r.display.primary } }) :
    pageRotate r = { s with
      sec := r.sec, min := r.min, hr := r.hr, page := (pageRotate r).page
      display := { s.display with
        primary := r.display.primary
        bank := (pageRotate r).display.bank, lcdOn := (pageRotate r).display.lcdOn } } := by
  refine (pageRotate_spec r).1.trans ?_
  generalize (pageRotate r).page = p, (pageRotate r).display = d
  conv_lhs => rw [h]

/-- Settles O24: short of midnight the carry ends in a page rotation of the state one second on. -/
theorem countUpTickAddsOneSecond : Obligations.CountUpTickAddsOneSecond := by
  intro s h he hm hl hmid
  refine ⟨_, exec_tickDispatch h, ?_⟩
  rw [dispatchTick_up he hm]
  have stores := showSec_stores (s := { s with tickIfg := false }) hl
  rcases tickUp_cases (s := { s with tickIfg := false }) hl with
    ⟨-, r, e, time, legal, frame, short, words⟩ | ⟨hmid', -⟩
  · rw [e]
    obtain ⟨-, dayZero, turns, htime, hdays, hblank⟩ := pageRotate_spec r
    have htotal : (pageRotate r).totalSeconds = r.totalSeconds := rfl
    have hlegal : (pageRotate r).TimeLegal ↔ r.TimeLegal := Iff.rfl
    have primary : (pageRotate r).display.primary = r.display.primary := showPage_primary _ _
    have read w : (pageRotate r).display.read .primary w = r.display.read .primary w := showPage_read _ _ _ w
    have rdays : r.days = s.days := by rw [frame]
    have rpage : r.page = s.page := by rw [frame]
    have rbank : r.display.bank = s.display.bank := by rw [frame]
    rw [rdays] at dayZero turns
    rw [rpage] at turns
    refine ⟨?_, htotal.trans time, hlegal.mpr legal, dayZero, fun hd => by rw [turns hd]; exact s.page.next_turns,
      htime, hdays, by rwa [rbank] at hblank, fun h59 => ?_, fun w hw => (read w).trans (words w hw)⟩
    · rw [primary]; exact pageRotate_of_time frame
    · rw [primary, short h59, stores h59]
  · exact absurd hmid' hmid

/-! ### The tick at midnight (41_engine R102, R103, R105) -/

/-- The bookkeeping of a state is that of its own DAYS (41_engine R103). -/
theorem centBook_booked (s : State) : CenturyBooked s.days.toNat s (centBook s) := by
  have hdic : s.days.toNat - s.cent.toNat * 36525 = s.daysInCentury := rfl
  rw [CenturyBooked, hdic]
  rcases centBook_cases s with ⟨hc, e⟩ | ⟨hc, hd, hm, e⟩ | ⟨hc, hd, e⟩ <;> rw [e]
  · exact ⟨fun _ => ⟨rfl, rfl, rfl⟩, fun h => absurd hc (Nat.not_le_of_lt h), fun h => absurd hc (Nat.not_le_of_lt h)⟩
  · refine ⟨fun h => absurd h (Nat.not_le_of_lt hc), fun _ _ _ => ⟨rfl, rfl, rfl⟩, fun _ h => ?_⟩
    exact absurd h (not_or.mpr ⟨Nat.not_lt_of_le hd, by simp [hm]⟩)
  · refine ⟨fun h => absurd h (Nat.not_le_of_lt hc), fun _ h hm => ?_, fun _ _ => ⟨rfl, rfl, rfl⟩⟩
    exact absurd hd (not_or.mpr ⟨Nat.not_lt_of_le h, by simp [hm]⟩)

/-- The first second of the next day, before its bookkeeping: the time shown is zero, and DAYS counts. -/
def nextDay (s : State) : State := { ((s.showSec 0).showMin 0).showHr 0 with days := s.days + 1 }

/-- The tick of a day's last second. -/
abbrev State.LastSecond (s : State) : Prop := s.sec = 59 ∧ s.min = 59 ∧ s.hr = 23

theorem State.LastSecond.timeLegal (h : s.LastSecond) : s.TimeLegal := by
  obtain ⟨hsec, hmin, hhr⟩ := h
  rw [State.TimeLegal, hsec, hmin, hhr]
  decide

theorem tickUp_midnight (h : s.LastSecond) : tickUp s = finishDay (centBook (nextDay s)) := by
  rcases tickUp_cases h.timeLegal with ⟨hmid, -⟩ | ⟨-, e⟩
  · exact absurd h hmid
  · exact e

theorem nextDay_holdsTime (hm : layoutOk s.params.segMap = true) :
    (nextDay s).display.HoldsTime s.params.segMap s.cache 0 0 0 := by
  simp [Display.HoldsTime, nextDay, fieldWrite_read_field hm]

theorem nextDay_blink (s : State) : (nextDay s).display.blink = s.display.blink := by
  simp [nextDay, fieldWrite]

theorem nextDay_bank (s : State) : (nextDay s).display.bank = s.display.bank := by
  simp [nextDay, fieldWrite]

/-- The bookkeeping sees of the next day only its DAYS. -/
theorem CenturyBooked.of_nextDay {t : State} {n : Nat} (hd : (s.days + 1).toNat = n)
    (h : CenturyBooked (nextDay s).days.toNat (nextDay s) t) : CenturyBooked n s t := hd ▸ h

/-- A display that holds the time of day zero shows it in every field. -/
theorem Display.HoldsTime.read_zero {m : SegMap} {c : WordCache} {d : Display} (h : d.HoldsTime m c 0 0 0) (f : Field) :
    d.read .primary (fieldWord m f) = c.wordFor f 0 := by
  obtain ⟨hsec, hmin, hhr⟩ := h
  cases f with
  | sec => exact hsec
  | min => exact hmin
  | hr => exact hhr

/-- The end of a day short of long-now: the day page is painted and the page rotated, the time page kept. -/
theorem pageRotate_paintDays (hlay : layoutOk s.params.segMap = true) :
    (s.days ≠ 0 → (pageRotate s.paintDays).page = s.page.next)
      ∧ (pageRotate s.paintDays).display.DayPage s.params.segMap s.days.toNat
      ∧ (∀ w, (pageRotate s.paintDays).display.read .primary w = s.display.read .primary w)
      ∧ (pageRotate s.paintDays).display.blink = s.display.blink
      ∧ (pageRotate s.paintDays).display.PageControls s.display.bank (pageRotate s.paintDays).page := by
  obtain ⟨-, -, turns, controls⟩ := pageRotate_spec s.paintDays
  obtain ⟨bank, blink, -⟩ := paintDayPage_controls (m := s.params.segMap) (d := s.display) s.days.toNat ⟨rfl, rfl, rfl⟩
  refine ⟨turns, ?_, fun w => ?_, ?_, bank ▸ controls⟩
  · exact (paintDayPage_dayPage hlay _ s.display).congr fun w => showPage_read _ _ _ w
  · exact (showPage_read _ _ _ w).trans (paintDayPage_read_primary _ _ _ w)
  · exact (showPage_blink _ _).trans blink

/-- A day's last second and the first of the next are a second apart. -/
theorem totalSeconds_nextDay (h : s.LastSecond) (hd : (s.days + 1).toNat = s.days.toNat + 1) :
    (nextDay s).totalSeconds = s.totalSeconds + 1 := by
  obtain ⟨hsec, hmin, hhr⟩ := h
  have hnext : (nextDay s).totalSeconds = 86400 * (s.days + 1).toNat := rfl
  have hlast : s.totalSeconds = 86400 * s.days.toNat + 86399 := by
    rw [State.totalSeconds, hsec, hmin, hhr]
    rfl
  omega

/-- Settles O25: the day is booked, then painted, and the page rotated. -/
theorem dayRolloverBooksTheCentury : Obligations.DayRolloverBooksTheCentury := by
  intro s h he hm hmid hdays hlay
  have hn : (s.days + 1).toNat = s.days.toNat + 1 := BitVec.toNat_add_of_lt (Nat.lt_trans hdays (by decide))
  have hne : s.days + 1 ≠ 0 := fun hz => by rw [hz] at hn; exact absurd hn (Nat.zero_ne_add_one _)
  refine ⟨_, exec_tickDispatch h, ?_⟩
  rw [dispatchTick_up he hm, tickUp_midnight (s := { s with tickIfg := false }) hmid]
  have frame := centBook_frame (nextDay { s with tickIfg := false })
  have booked := (centBook_booked (nextDay { s with tickIfg := false })).of_nextDay hn
  have shown := nextDay_holdsTime (s := { s with tickIfg := false }) hlay
  have blink := nextDay_blink { s with tickIfg := false }
  have bank := nextDay_bank { s with tickIfg := false }
  have time := totalSeconds_nextDay (s := { s with tickIfg := false }) hmid hn
  generalize centBook (nextDay { s with tickIfg := false }) = r at *
  have rdays : r.days = s.days + 1 := by rw [frame]; rfl
  have rparams : r.params = s.params := by rw [frame]; rfl
  have rpage : r.page = s.page := by rw [frame]; rfl
  have rtime : r.totalSeconds = (nextDay { s with tickIfg := false }).totalSeconds := by rw [frame]; rfl
  rw [show (nextDay { s with tickIfg := false }).display = r.display by rw [frame]] at shown blink bank
  rcases finishDay_cases r with ⟨-, e⟩ | ⟨hge, -⟩
  · rw [e]
    obtain ⟨page, dayPage, read, rblink, htime, hdays, hblank⟩ := pageRotate_paintDays (s := r) (rparams ▸ hlay)
    obtain ⟨toDays, toBlank, toTime⟩ := s.page.next_turns
    rw [rparams, rdays, hn] at dayPage
    rw [bank] at hblank
    replace page := (page (rdays ▸ hne)).trans (congrArg Page.next rpage)
    rw [← page] at toDays toBlank toTime
    refine ⟨?frame, rtime.trans time, booked, dayPage, (shown.congr read).read_zero, rblink.trans blink, toDays,
      toBlank, toTime, htime, hdays, hblank⟩
    calc pageRotate r.paintDays
      _ = { r with page := (pageRotate r.paintDays).page, display := (pageRotate r.paintDays).display } := rfl
      _ = _ := by
        rw [page]
        generalize (pageRotate r.paintDays).display = d
        conv_lhs => rw [frame]
        rfl
  · rw [rdays, hn] at hge
    exact absurd hdays (Nat.not_lt_of_le hge)

/-- Settles O26: a million days on, the booked day ends in TERMINAL. -/
theorem longNowEntersTerminal : Obligations.LongNowEntersTerminal := by
  intro s h he hm hmid hdays hlay
  have hn : (s.days + 1).toNat = 1000000 := by rw [hdays]; rfl
  refine ⟨_, exec_tickDispatch h, ?_⟩
  rw [dispatchTick_up he hm, tickUp_midnight (s := { s with tickIfg := false }) hmid]
  have frame := centBook_frame (nextDay { s with tickIfg := false })
  have booked := (centBook_booked (nextDay { s with tickIfg := false })).of_nextDay hn
  generalize centBook (nextDay { s with tickIfg := false }) = r at *
  have rdays : r.days = s.days + 1 := by rw [frame]; rfl
  have rparams : r.params = s.params := by rw [frame]; rfl
  rcases finishDay_cases r with ⟨hlt, -⟩ | ⟨-, e⟩
  · rw [rdays, hn] at hlt
    exact absurd hlt (Nat.lt_irrefl _)
  · rw [e, enterTerminal_eq]
    refine ⟨?_, booked, ?_⟩
    · generalize paintTerminal r.params.segMap r.display = d
      conv_lhs => rw [frame]
      rfl
    · rw [rparams]
      exact paintTerminal_terminalPage hlay _

end Sys2Proof.Machine
end

section
/-! BOOT, case by case, and the restore of a launched device (41_engine R111, 44_host R137, 70_reset_and_hazards
R164). -/

namespace Sys2Proof.Machine

variable {s : State} {p : Stamp}

/-! ### The cases of BOOT (44_host R137) -/

/-- BOOT's state past the self-check, before it looks at the launch flag: the flags cleared, the enables set, the
display cleared and the cache built. -/
def bootReady (s : State) : State := bootEnables (bootDisplay s).buildCache

theorem bootReady_eq (h : layoutOk s.params.segMap = true) :
    bootReady s = { s with
      ifg := InputBits.zero, tickIfg := false, ie := InputBits.ones, tickIe := true, cacheValid := true
      cache := cacheWords s.params.segMap, display := showPrimary .none (hwClear s.display) } := by
  rw [bootReady, State.buildCache, if_pos (show layoutOk (bootDisplay s).params.segMap = true from h)]
  rfl

theorem disableTrigger_bootReady_eq (h : layoutOk s.params.segMap = true) :
    disableTrigger (bootReady s) = { s with
      ifg := InputBits.zero, tickIfg := false, ie := ⟨true, true, false⟩, tickIe := true, cacheValid := true
      armed := ⟨s.armed.adv, s.armed.inc, false⟩
      cache := cacheWords s.params.segMap, display := showPrimary .none (hwClear s.display) } := by
  rw [bootReady_eq h]
  rfl

theorem State.launched_iff (s : State) :
    s.launched = true ↔ s.params.config = .elapsedSinceLaunch ∧ s.dur.flagSet .lflag = true := by
  simp [State.launched]

/-- Outside IDLE a BOOT is refused; in IDLE it stops at a layout that fails the self-check, enters SETTING, or restores
a launched device with the trigger disabled. -/
theorem hostBoot_cases (p : Stamp) (s : State) :
    (s.eng ≠ .idle ∧ hostBoot p s = s.reject reasonIllegal)
      ∨ (s.eng = .idle ∧ layoutOk s.params.segMap = false ∧ hostBoot p s = enterError (bootDisplay s) errorLayout)
      ∨ (s.eng = .idle ∧ layoutOk s.params.segMap = true
        ∧ ¬(s.params.config = .elapsedSinceLaunch ∧ s.dur.flagSet .lflag = true)
        ∧ hostBoot p s = enterSetting (bootReady s))
      ∨ (s.eng = .idle ∧ layoutOk s.params.segMap = true
        ∧ (s.params.config = .elapsedSinceLaunch ∧ s.dur.flagSet .lflag = true)
        ∧ hostBoot p s = bootRestore p (disableTrigger (bootReady s))) := by
  unfold hostBoot bootBlock
  by_cases he : s.eng = .idle
  · rw [if_pos he, ← State.launched_iff]
    by_cases hm : layoutOk s.params.segMap = true
    · have same : (bootReady s).launched = s.launched := by rw [bootReady_eq hm]; rfl
      rw [if_pos hm, ← bootReady, bootEngine, same]
      by_cases hl : s.launched = true
      · exact .inr (.inr (.inr ⟨he, hm, hl, if_pos hl⟩))
      · exact .inr (.inr (.inl ⟨he, hm, hl, if_neg hl⟩))
    · exact .inr (.inl ⟨he, by simpa using hm, if_neg hm⟩)
  · exact .inl ⟨he, if_neg he⟩

/-- The state a valid date restores, before it is known whether the count is at long-now. -/
def restored (p : Stamp) (s : State) : State := restoreTime (restoreCentury s (stampFields p).yy) (stampFields p)

theorem bootRestore_cases (p : Stamp) (s : State) :
    (validTs p = false ∧ bootRestore p s = enterError s errorClock)
      ∨ (validTs p = true ∧ bootRestore p s = resumeCount (restored p s)) := by
  unfold bootRestore
  split
  case isTrue h => exact .inr ⟨h, rfl⟩
  case isFalse h => exact .inl ⟨by simpa using h, rfl⟩

/-! ### The century of a restore (41_engine R111, 42_durable R117, 70_reset_and_hazards R164) -/

/-- The repair of CREC on its own: both words from the backup, then the flag cleared, in the bracket. -/
theorem repairList_crec {m : Memory} (h : m.read 0x00 ≠ 0) :
    m.repairList .crec =
      [.wpu, .dww 0x01 (m.read 0x03), .dww 0x02 (m.read 0x04), .dww 0x00 0, .wpl] := by
  rcases repairList_cases m .crec with ⟨hz, -⟩ | ⟨-, e⟩
  · exact absurd hz h
  · have active : m.recordActive .crec = true := bne_iff_ne.mpr h
    rw [e, Memory.repairUops, if_pos active]
    rfl

/-- What a restore with RTC year yy does to the century: the pair read from CREC, corrected by the year, with the
correction's write queued, or as read with the repair of a cut write queued. -/
abbrev CenturyRestored (yy : Nat) (s t : State) : Prop :=
  (s.dur.readCentury.2 = true ∧ yy < 50 →
      t.cent = s.dur.readCentury.1 + 1 ∧ t.midf = false
        ∧ t.uq = s.uq ++ s.dur.recordUops .crec [s.dur.readCentury.1 + 1, 0])
    ∧ (s.dur.readCentury.2 = false ∧ 50 ≤ yy →
      t.cent = s.dur.readCentury.1 ∧ t.midf = true
        ∧ t.uq = s.uq ++ s.dur.recordUops .crec [s.dur.readCentury.1, 1])
    ∧ (¬(s.dur.readCentury.2 = true ∧ yy < 50) → ¬(s.dur.readCentury.2 = false ∧ 50 ≤ yy) →
      t.cent = s.dur.readCentury.1 ∧ t.midf = s.dur.readCentury.2
        ∧ (s.dur.read 0x00 = 0 → t.uq = s.uq)
        ∧ (s.dur.read 0x00 ≠ 0 → t.uq = s.uq ++
            [.wpu, .dww 0x01 (s.dur.read 0x03), .dww 0x02 (s.dur.read 0x04), .dww 0x00 0, .wpl]))

theorem restoreCentury_restored (s : State) (yy : Nat) : CenturyRestored yy s (restoreCentury s yy) := by
  unfold restoreCentury CenturyRestored
  generalize s.dur.readCentury.1 = c, s.dur.readCentury.2 = m
  rcases correctCentury_cases s c m yy with ⟨hm, hy, e⟩ | ⟨hm, hy, e⟩ | ⟨hwrap, hmid, e⟩ <;> rw [e]
  · exact ⟨fun _ => ⟨rfl, rfl, rfl⟩, fun h => absurd (hm.symm.trans h.1) nofun, fun h => absurd ⟨hm, hy⟩ h⟩
  · exact ⟨fun h => absurd (hm.symm.trans h.1) nofun, fun _ => ⟨rfl, rfl, rfl⟩, fun _ h => absurd ⟨hm, hy⟩ h⟩
  · refine ⟨fun h => absurd h hwrap, fun h => absurd h hmid, fun _ _ => ⟨rfl, rfl, fun hz => ?_, fun hn => ?_⟩⟩
    · rcases repairList_cases s.dur .crec with ⟨-, e'⟩ | ⟨hn, -⟩
      · rw [State.repairRecord_uq, e', List.append_nil]
      · exact absurd hz hn
    · rw [State.repairRecord_uq, repairList_crec hn]

theorem restoreCentury_frame (s : State) (yy : Nat) :
    restoreCentury s yy = { s with
      cent := (restoreCentury s yy).cent, midf := (restoreCentury s yy).midf, uq := (restoreCentury s yy).uq } := by
  obtain ⟨c, f, us, -, e⟩ := restoreCentury_queues s yy
  rw [e]
  rfl

theorem restored_frame (p : Stamp) (s : State) :
    restored p s = { s with
      sec := (restored p s).sec, min := (restored p s).min, hr := (restored p s).hr, days := (restored p s).days
      cent := (restored p s).cent, midf := (restored p s).midf, uq := (restored p s).uq } := by
  have frame := restoreCentury_frame s (stampFields p).yy
  unfold restored
  generalize restoreCentury s (stampFields p).yy = r at frame ⊢
  conv_lhs => rw [frame]
  rfl

theorem restored_century (p : Stamp) (s : State) : CenturyRestored (stampFields p).yy s (restored p s) :=
  restoreCentury_restored s (stampFields p).yy

/-- The days and the time of day of a valid date fit their registers. -/
theorem restored_time (hp : validTs p = true) (s : State) :
    (restored p s).days.toNat
        = (restored p s).cent.toNat * 36525 + rtcDays (stampFields p).yy (stampFields p).mm (stampFields p).dd
      ∧ (restored p s).hr.toNat = (stampFields p).hh ∧ (restored p s).min.toNat = (stampFields p).mi
      ∧ (restored p s).sec.toNat = (stampFields p).ss := by
  obtain ⟨-, -, -, -, -, hh, hmi, hss⟩ := validTs_range hp
  obtain ⟨hday, -⟩ := midpointIsTheYearTest p hp
  have hcent := (restored p s).cent.isLt
  refine ⟨Nat.mod_eq_of_lt ?_, Nat.mod_eq_of_lt ?_, Nat.mod_eq_of_lt ?_, Nat.mod_eq_of_lt ?_⟩
  · change (restored p s).cent.toNat * 36525 + _ < 4294967296
    omega
  · omega
  · omega
  · omega

/-! ### The display of a restore (41_engine R111, 40_display R84) -/

/-- The count-up display with its day page painted. -/
theorem countPage_display {m : SegMap} (h : layoutOk m = true) {sec min hr : Nat} (hs : sec < 60) (hmi : min < 60)
    (hh : hr < 24) (n : Nat) {d : Display} (hd : d.OnlySegments m) :
    let shown := paintDayPage m n (countingDisplay (cacheWords m) sec min hr m d)
    shown.TimePage m sec min hr ∧ shown.DayPage m n ∧ shown.Controls .primary .none true ∧ shown.OnlySegments m := by
  refine ⟨Display.HoldsTime.timePage h hs hmi hh ?_, paintDayPage_dayPage h n _, paintDayPage_controls n ?_,
    paintDayPage_onlySegments n (countingDisplay_onlySegments h hs hmi hh hd)⟩
  · exact (countingDisplay_holdsTime h).congr fun w => paintDayPage_read_primary _ _ _ w
  · exact countingDisplay_controls _ _ _ _ _ _

/-- A restore short of long-now, on a cleared display with the cache built: the count-up pages. -/
theorem resumeCount_counting (hlt : s.days.toNat < 1000000) :
    resumeCount s = { s with
      eng := .counting, mode := .up, page := .time
      display := paintDayPage s.params.segMap s.days.toNat
        (countingDisplay s.cache s.sec.toNat s.min.toNat s.hr.toNat s.params.segMap s.display) } := by
  rcases resumeCount_cases s with ⟨-, e⟩ | ⟨hge, -⟩
  · rw [e, enterCounting_eq]
    rfl
  · exact absurd hlt (Nat.not_lt_of_le hge)

theorem resumeCount_terminal (hge : 1000000 ≤ s.days.toNat) : resumeCount s = enterTerminal s := by
  rcases resumeCount_cases s with ⟨hlt, -⟩ | ⟨-, e⟩
  · exact absurd hlt (Nat.not_lt_of_le hge)
  · exact e

/-- BOOT of a launched device with a valid date. -/
theorem hostBoot_restores (he : s.eng = .idle) (hm : layoutOk s.params.segMap = true)
    (hl : s.params.config = .elapsedSinceLaunch ∧ s.dur.flagSet .lflag = true) (hp : validTs p = true) :
    hostBoot p s = resumeCount (restored p (disableTrigger (bootReady s))) := by
  rcases hostBoot_cases p s with ⟨hne, -⟩ | ⟨-, hbad, -⟩ | ⟨-, -, hfresh, -⟩ | ⟨-, -, -, e⟩
  · exact absurd he hne
  · exact absurd (hm.symm.trans hbad) nofun
  · exact absurd hl hfresh
  · rcases bootRestore_cases p (disableTrigger (bootReady s)) with ⟨hbad, -⟩ | ⟨-, e'⟩
    · exact absurd (hp.symm.trans hbad) nofun
    · exact e.trans e'

/-- Settles O12: the restored state takes the century and the time of the date, and resumes the count or is at
long-now. -/
theorem bootRestoresALaunchedDevice : Obligations.BootRestoresALaunchedDevice := by
  intro p s hready he hm hconfig hflag hp c m f
  refine ⟨_, whenHostReady_of hready _, ?_⟩
  rw [hostBoot_restores he hm ⟨hconfig, hflag⟩ hp]
  obtain ⟨-, -, -, -, -, hh, hmi, hss⟩ := validTs_range hp
  have ready := disableTrigger_bootReady_eq hm
  have cleared := showPrimary_onlySegments .none (hwClear_onlySegments s.params.segMap s.display)
  have frame := restored_frame p (disableTrigger (bootReady s))
  have century := restored_century p (disableTrigger (bootReady s))
  obtain ⟨days, hours, minutes, seconds⟩ := restored_time hp (disableTrigger (bootReady s))
  generalize restored p (disableTrigger (bootReady s)) = r at *
  generalize disableTrigger (bootReady s) = x at *
  subst ready
  have rparams : r.params = s.params := by rw [frame]
  have rmode : r.mode = s.mode := by rw [frame]
  have rcache : r.cache = cacheWords s.params.segMap := by rw [frame]
  have rdisplay : r.display = showPrimary .none (hwClear s.display) := by rw [frame]
  obtain ⟨wrapped, midpoint, kept⟩ := century
  by_cases hlt : r.days.toNat < 1000000
  · rw [resumeCount_counting hlt, rparams, rcache, rdisplay, hours, minutes, seconds]
    obtain ⟨timePage, dayPage, controls, only⟩ :=
      countPage_display hm (Nat.lt_succ_of_le hss) (Nat.lt_succ_of_le hmi) (Nat.lt_succ_of_le hh) r.days.toNat cleared
    refine ⟨?counting, wrapped, midpoint, kept, fun _ => ⟨rfl, rfl, days, rfl, rfl, rfl, timePage, dayPage, controls⟩,
      only, fun hge => absurd hlt (Nat.not_lt_of_le (hge.trans_eq days.symm))⟩
    generalize paintDayPage _ _ _ = d
    conv_lhs => rw [frame]
    rfl
  · rw [resumeCount_terminal (Nat.le_of_not_lt hlt), enterTerminal_eq, rparams, rmode, rcache, rdisplay]
    refine ⟨?terminal, wrapped, midpoint, kept, fun h => absurd (days.trans_lt h) hlt,
      paintTerminal_onlySegments cleared, fun _ => ⟨rfl, rfl, rfl, paintTerminal_terminalPage hm _⟩⟩
    case terminal =>
      generalize paintTerminal _ _ = d
      conv_lhs => rw [frame]
      rfl

end Sys2Proof.Machine
end

section
/-! The engine's moves: what each handler can do to ENG_STATE, and under which guard (41_engine R95). -/

namespace Sys2Proof.Machine

variable {s t : State} {i : Instr}

/-! ### The handlers that leave the engine alone, and UNLOCK_DONE (44_host R138, R139) -/

/-- What COMMISSION can write. -/
theorem hostCommission_frame (p : Stamp) (s : State) :
    hostCommission p s = { s with
      cmdReject := (hostCommission p s).cmdReject, rejectReason := (hostCommission p s).rejectReason
      uq := (hostCommission p s).uq } := by
  unfold hostCommission
  split
  · split <;> rfl
  · rfl

/-- Outside UNLOCKING an UNLOCK_DONE is refused; in UNLOCKING it enters SETTING. -/
theorem hostUnlockDone_cases (s : State) :
    (s.eng ≠ .unlocking ∧ hostUnlockDone s = s.reject reasonIllegal)
      ∨ (s.eng = .unlocking ∧ hostUnlockDone s = enterSetting s) := by
  unfold hostUnlockDone
  split
  case isTrue h => exact .inr ⟨h, rfl⟩
  case isFalse h => exact .inl ⟨h, rfl⟩

/-! ### The labels that perform a µop (42_durable R120) -/

theorem exec_toInstr (u : Uop) (s : State) : exec u.toInstr s = performUop u s := by cases u <;> rfl

theorem exists_uop_of_labelClass (h : i.labelClass = .uop) : ∃ u : Uop, i = u.toInstr := by
  cases i with
  | dww a v => exact ⟨.dww a v, rfl⟩
  | wpu => exact ⟨.wpu, rfl⟩
  | wpl => exact ⟨.wpl, rfl⟩
  | emit e => exact ⟨.emit e, rfl⟩
  | _ => nomatch h

theorem performed_of_ne (h : i ≠ .uopStep) (s : State) : performed i s = i := by
  cases i with
  | uopStep => exact absurd rfl h
  | _ => rfl

/-- UOP_STEP performs the head of UQ on the state with the rest; a µop on its own leaves UQ as it is. -/
theorem exec_uop_cases (hi : i = .uopStep ∨ i.labelClass = .uop) (h : exec i s = .next t) :
    ∃ u us, performed i s = u.toInstr ∧ (i = .uopStep ∨ us = s.uq) ∧ performUop u { s with uq := us } = .next t := by
  rcases hi with rfl | hi
  · obtain ⟨u, us, hq, hp⟩ := execUopStep_next h
    exact ⟨u, us, by simp only [performed, hq], .inl rfl, hp⟩
  · have hne : i ≠ .uopStep := fun e => by rw [e] at hi; cases hi
    rw [performed_of_ne hne]
    obtain ⟨u, rfl⟩ := exists_uop_of_labelClass hi
    exact ⟨u, s.uq, rfl, .inr rfl, (exec_toInstr u s).symm.trans h⟩

/-- A label that performs a µop changes UQ, DUR, WP, WP_FAULT and OUT only. -/
theorem exec_uop_frame (hi : i = .uopStep ∨ i.labelClass = .uop) (h : exec i s = .next t) :
    t = { s with uq := t.uq, dur := t.dur, wp := t.wp, wpFault := t.wpFault, out := t.out } := by
  obtain ⟨u, us, -, -, hp⟩ := exec_uop_cases hi h
  have frame := performUop_frame hp
  have huq : t.uq = us := by rw [frame]
  rw [huq]
  exact frame

/-! ### BOOT (44_host R137, 41_engine R111) -/

/-- Where a restore of a valid date ends. -/
theorem resumeCount_engine (s : State) :
    (1000000 ≤ s.days.toNat ∧ (resumeCount s).eng = .terminal)
      ∨ (s.days.toNat < 1000000 ∧ (resumeCount s).eng = .counting ∧ (resumeCount s).mode = .up) := by
  by_cases h : s.days.toNat < 1000000
  · rw [resumeCount_counting h]
    exact .inr ⟨h, rfl, rfl⟩
  · rw [resumeCount_terminal (Nat.le_of_not_lt h)]
    exact .inl ⟨Nat.le_of_not_lt h, rfl⟩

theorem resumeCount_cent (s : State) : (resumeCount s).cent = s.cent := by
  rcases resumeCount_cases s with ⟨-, e⟩ | ⟨-, e⟩ <;> rw [e] <;> rfl

/-- The engine's row of a valid date's restore: the day count decides. -/
theorem bootRestore_engine {p : Stamp} (hp : validTs p = true) (s : State) :
    let t := bootRestore p s
    let n := t.cent.toNat * 36525 + rtcDays (stampFields p).yy (stampFields p).mm (stampFields p).dd
    (1000000 ≤ n ∧ t.eng = .terminal) ∨ (n < 1000000 ∧ t.eng = .counting ∧ t.mode = .up) := by
  rcases bootRestore_cases p s with ⟨hbad, -⟩ | ⟨-, e⟩
  · exact absurd (hp.symm.trans hbad) nofun
  · simp only [e, resumeCount_cent, ← (restored_time hp s).1]
    exact resumeCount_engine _

/-! ### SETTLE_DONE (43_input R127, 41_engine R100, R106) -/

/-- Only a confirmed trigger press in SETTLE_DONE moves the engine. -/
theorem triggerConfirmed_of_settleInputs (h : (settleInputs s).eng ≠ s.eng) : s.TriggerConfirmed := by
  obtain ⟨f, e, a, hb, -, hedge, harmed⟩ := settleButtons_frame s
  unfold settleInputs at h
  rw [hb] at h
  unfold settleTurn at h
  split at h
  case isFalse => exact absurd rfl h
  case isTrue hset =>
    rcases settleInput_cases .trig { s with ifg := f, edge := e, armed := a } with
      ⟨he, hp, h'⟩ | ⟨-, -, h'⟩ | ⟨-, h'⟩ <;> rw [h'] at h
    · cases ht : triggerActs .trig { s with ifg := f.set .trig false, edge := e, armed := a }
      · rw [confirmPress_quiet ht] at h
        exact absurd rfl h
      · obtain ⟨-, ha, -⟩ := (triggerActs_iff _ _).mp ht
        exact ⟨hset, hedge.symm.trans he, hp, harmed.symm.trans ha⟩
    · rw [confirmRelease_eq] at h
      exact absurd rfl h
    · exact absurd rfl h

/-- The trigger's action starts a countdown or a count-up, by CONFIG. -/
theorem actTrigger_engine (s : State) :
    (s.params.config = .countdownUnlock ∧ (actTrigger s).eng = .counting ∧ (actTrigger s).mode = .down)
      ∨ (s.params.config = .elapsedSinceLaunch ∧ (actTrigger s).eng = .counting ∧ (actTrigger s).mode = .up) := by
  unfold actTrigger
  cases s.params.config
  · rw [commit_eq]
    exact .inl ⟨rfl, rfl, rfl⟩
  · rw [launch_eq]
    exact .inr ⟨rfl, rfl, rfl⟩

theorem settleInputs_engine (s : State) :
    (settleInputs s).eng = s.eng
      ∨ (s.eng = .setting ∧ s.TriggerConfirmed
        ∧ ((s.params.config = .countdownUnlock ∧ (settleInputs s).eng = .counting ∧ (settleInputs s).mode = .down)
          ∨ (s.params.config = .elapsedSinceLaunch ∧ (settleInputs s).eng = .counting
            ∧ (settleInputs s).mode = .up))) := by
  by_cases h : (settleInputs s).eng = s.eng
  · exact .inl h
  · have confirmed := triggerConfirmed_of_settleInputs h
    rcases settleInputs_cases s with ⟨f, e, a, e'⟩ | ⟨he, f, e, a, e'⟩ <;> rw [e'] at h ⊢
    · exact absurd rfl h
    · exact .inr ⟨he, confirmed, actTrigger_engine { s with debActive := false }⟩

/-! ### TICK_DISPATCH (41_engine R98, R102) -/

/-- A countdown tick unlocks when the whole time is zero, and only then; it queues nothing but its one UNLOCK. -/
theorem tickDown_engine (s : State) :
    ((tickDown s).eng = s.eng ∧ (tickDown s).uq = s.uq)
      ∨ ((tickDown s).totalSeconds = 0 ∧ (tickDown s).eng = .unlocking
        ∧ (tickDown s).uq = s.uq ++ [.emit eventUnlock]) := by
  rcases Nat.eq_zero_or_pos s.totalSeconds with hz | hp
  · rw [tickDown_zero hz]
    exact .inr ⟨hz, rfl, rfl⟩
  · obtain ⟨heng, huq⟩ := borrowSecond_engine s
    rw [tickDown_pos hp, ← heng, ← huq]
    rcases unlockIfZero_cases (borrowSecond s) with ⟨hz, e⟩ | ⟨-, e⟩ <;> rw [e]
    · exact .inr ⟨hz, rfl, rfl⟩
    · exact .inl ⟨rfl, rfl⟩

/-- A day rollover leaves COUNTING at long-now only. -/
theorem rollDay_engine (s : State) :
    (rollDay s).eng = s.eng ∨ (1000000 ≤ (s.days + 1).toNat ∧ (rollDay s).eng = .terminal) := by
  have frame := centBook_frame { s with days := s.days + 1 }
  unfold rollDay
  generalize centBook { s with days := s.days + 1 } = r at frame ⊢
  have rdays : r.days = s.days + 1 := by rw [frame]
  rcases finishDay_cases r with ⟨-, e⟩ | ⟨hge, e⟩ <;> rw [e]
  · exact .inl (by rw [frame]; rfl)
  · exact .inr ⟨rdays ▸ hge, rfl⟩

/-- A count-up tick leaves COUNTING only by the carry of the last second of a day that reaches long-now. -/
theorem tickUp_engine (s : State) :
    (tickUp s).eng = s.eng
      ∨ (59 ≤ s.sec.toNat ∧ 59 ≤ s.min.toNat ∧ 23 ≤ s.hr.toNat ∧ 1000000 ≤ (s.days + 1).toNat
        ∧ (tickUp s).eng = .terminal) := by
  unfold tickUp
  split
  case isTrue => exact .inl rfl
  case isFalse hsec =>
    unfold carryMinute
    split
    case isTrue => exact .inl rfl
    case isFalse hmin =>
      unfold carryHour
      split
      case isTrue => exact .inl rfl
      case isFalse hhr =>
        simp only [State.showSec_min, State.showSec_hr, State.showMin_hr] at hmin hhr
        rcases rollDay_engine ((((s.showSec 0).showMin 0).showHr 0)) with e | ⟨hd, e⟩
        · exact .inl e
        · exact .inr ⟨by bv_omega, by bv_omega, by bv_omega, hd, e⟩

theorem dispatchTick_engine (s : State) :
    (dispatchTick s).eng = s.eng
      ∨ (s.eng = .counting ∧ s.mode = .down ∧ (dispatchTick s).totalSeconds = 0 ∧ (dispatchTick s).eng = .unlocking)
      ∨ (s.eng = .counting ∧ s.mode = .up ∧ 59 ≤ s.sec.toNat ∧ 59 ≤ s.min.toNat ∧ 23 ≤ s.hr.toNat
        ∧ 1000000 ≤ (s.days + 1).toNat ∧ (dispatchTick s).eng = .terminal) := by
  by_cases he : s.eng = .counting
  · cases hm : s.mode with
    | down =>
      rw [dispatchTick_down he hm]
      rcases tickDown_engine { s with tickIfg := false } with ⟨e, -⟩ | ⟨hz, e, -⟩
      · exact .inl e
      · exact .inr (.inl ⟨he, rfl, hz, e⟩)
    | up =>
      rw [dispatchTick_up he hm]
      rcases tickUp_engine { s with tickIfg := false } with e | row
      · exact .inl e
      · exact .inr (.inr ⟨he, rfl, row⟩)
  · rw [dispatchTick_other he]
    exact .inl rfl

/-- Settles O56, label by label: each handler's own moves, and no move elsewhere. -/
theorem engineMovesOnlyByTheTable : Obligations.EngineMovesOnlyByTheTable := by
  intro i s t h
  cases i with
  | boot p =>
    obtain ⟨-, rfl⟩ := (whenHostReady_next _ _ _).mp h
    rcases hostBoot_cases p s with ⟨-, e⟩ | ⟨he, hm, e⟩ | ⟨he, hm, hl, e⟩ | ⟨he, hm, ⟨hc, hl⟩, e⟩ <;> rw [e]
    · exact .inl rfl
    · exact .inr (.inr (.inl ⟨⟨p, rfl⟩, he, hm, rfl, rfl⟩))
    · iterate 3 right
      exact .inl ⟨⟨p, rfl⟩, he, hm, hl, rfl⟩
    · rcases bootRestore_cases p (disableTrigger (bootReady s)) with ⟨hp, e'⟩ | ⟨hp, -⟩
      · rw [e']
        iterate 4 right
        exact .inl ⟨⟨p, rfl, hp⟩, he, hm, hc, hl, rfl, rfl⟩
      · iterate 5 right
        exact .inl ⟨⟨p, rfl, hp, bootRestore_engine hp _⟩, he, hm, hc, hl⟩
  | unlockDone =>
    obtain ⟨-, rfl⟩ := (whenHostReady_next _ _ _).mp h
    rcases hostUnlockDone_cases s with ⟨-, e⟩ | ⟨he, e⟩ <;> rw [e]
    · exact .inl rfl
    · iterate 10 right
      exact ⟨rfl, he, rfl⟩
  | commission p =>
    obtain ⟨-, rfl⟩ := (whenHostReady_next _ _ _).mp h
    exact .inl (by rw [hostCommission_frame])
  | setTsLatch p =>
    obtain ⟨-, rfl⟩ := (whenHostReady_next _ _ _).mp h
    exact .inl rfl
  | clearStatus =>
    obtain ⟨-, rfl⟩ := (whenHostReady_next _ _ _).mp h
    exact .inl rfl
  | tickEdge => cases h; exact .inl rfl
  | pinChange k lvl =>
    obtain ⟨-, rfl⟩ := execPinChange_next h
    exact .inl rfl
  | powerLoss => cases h; exact .inr (.inl ⟨rfl, rfl⟩)
  | tickDispatch =>
    obtain ⟨-, rfl⟩ := (whenEnabled_next _ _ _ _).mp h
    rcases dispatchTick_engine s with e | down | up
    · exact .inl e
    · iterate 8 right
      exact .inl ⟨rfl, down⟩
    · iterate 9 right
      exact .inl ⟨rfl, up⟩
  | inputEntry =>
    obtain ⟨-, rfl⟩ := (whenEnabled_next _ _ _ _).mp h
    exact .inl (by rw [enterInput_frame])
  | settleDone =>
    obtain ⟨-, rfl⟩ := (whenEnabled_next _ _ _ _).mp h
    rcases settleInputs_engine s with e | ⟨he, hc, down | up⟩
    · exact .inl e
    · iterate 6 right
      exact .inl ⟨rfl, he, hc, down⟩
    · iterate 7 right
      exact .inl ⟨rfl, he, hc, up⟩
  | uopStep => exact .inl (by rw [exec_uop_frame (.inl rfl) h])
  | _ => exact .inl (by rw [exec_uop_frame (.inr rfl) h])

end Sys2Proof.Machine
end

section
/-! TERMINAL and ERROR: every step there leaves the engine, the time, the setting and the display (41_engine R105, R108,
60_exceptions R161). -/

namespace Sys2Proof.Machine

variable {s t : State} {i : Instr}

/-! ### The handlers outside SETTING and COUNTING -/

/-- INPUT_ENTRY outside SETTING takes the snapshot only. -/
theorem enterInput_quiet (he : s.eng ≠ .setting) :
    enterInput s = { s with debSet := s.requests, debActive := true } := by
  have idle (snapshot : InputBits) (i : Input) : ¬buttonActs snapshot i s = true := mt buttonActs_setting he
  rw [enterInput, entryAdvance, if_neg (idle _ _), entryIncrement, if_neg (idle _ _)]

theorem hostCommission_illegal (h : commissionLegal s.eng = false) (p : Stamp) :
    hostCommission p s = s.reject reasonIllegal := by
  rw [hostCommission, h]
  rfl

/-- In TERMINAL and ERROR every label but a POWER_LOSS and the µops writes the input bits, the tick flags, the sticky
flags and TS_LATCH only. -/
theorem exec_absorbed (he : s.eng = .terminal ∨ s.eng = .error) (hp : i ≠ .powerLoss) (hq : i ≠ .uopStep)
    (hi : i.labelClass ≠ .uop) (h : exec i s = .next t) :
    t = { s with
      pin := t.pin, ifg := t.ifg, edge := t.edge, armed := t.armed, debSet := t.debSet, debActive := t.debActive
      tickIfg := t.tickIfg, tickLost := t.tickLost, cmdReject := t.cmdReject, rejectReason := t.rejectReason
      wpFault := t.wpFault, tsLatch := t.tsLatch } := by
  have hidle : s.eng ≠ .idle := by rintro e; simp [e] at he
  have hsetting : s.eng ≠ .setting := by rintro e; simp [e] at he
  have hcounting : s.eng ≠ .counting := by rintro e; simp [e] at he
  have hunlocking : s.eng ≠ .unlocking := by rintro e; simp [e] at he
  cases i with
  | boot p =>
    obtain ⟨-, rfl⟩ := (whenHostReady_next _ _ _).mp h
    rw [hostBoot, if_neg hidle]
    rfl
  | unlockDone =>
    obtain ⟨-, rfl⟩ := (whenHostReady_next _ _ _).mp h
    rw [hostUnlockDone, if_neg hunlocking]
    rfl
  | commission p =>
    obtain ⟨-, rfl⟩ := (whenHostReady_next _ _ _).mp h
    rw [hostCommission_illegal (by rcases he with e | e <;> rw [e] <;> rfl)]
    rfl
  | setTsLatch p => obtain ⟨-, rfl⟩ := (whenHostReady_next _ _ _).mp h; rfl
  | clearStatus => obtain ⟨-, rfl⟩ := (whenHostReady_next _ _ _).mp h; rfl
  | tickEdge => cases h; rfl
  | pinChange k lvl => obtain ⟨-, rfl⟩ := execPinChange_next h; rfl
  | powerLoss => exact absurd rfl hp
  | tickDispatch =>
    obtain ⟨-, rfl⟩ := (whenEnabled_next _ _ _ _).mp h
    rw [dispatchTick_other hcounting]
  | inputEntry =>
    obtain ⟨-, rfl⟩ := (whenEnabled_next _ _ _ _).mp h
    rw [enterInput_quiet hsetting]
  | settleDone =>
    obtain ⟨-, rfl⟩ := (whenEnabled_next _ _ _ _).mp h
    rcases settleInputs_cases s with ⟨f, e, a, hs⟩ | ⟨hs, -⟩
    · rw [hs]
    · exact absurd hs hsetting
  | uopStep => exact absurd rfl hq
  | _ => exact absurd rfl hi

/-- Settles O57: the µops by their frame, the other labels by the two states' guards. -/
theorem terminalAndErrorAreAbsorbing : Obligations.TerminalAndErrorAreAbsorbing := fun _ _ _ he hp h =>
  ⟨fun hq hi => exec_absorbed he hp hq hi h, fun hi => exec_uop_frame hi h⟩

end Sys2Proof.Machine
end

section
/-! UNLOCK: what each step does to the number of UNLOCK events emitted or queued (41_engine R99). -/

namespace Sys2Proof.Machine

variable {s t : State} {i : Instr}

/-! ### Queued lists without an UNLOCK -/

/-- The UNLOCK events of a list of µops. -/
def unlocksIn (us : List Uop) : Nat := us.count (.emit eventUnlock)

theorem State.unlocks_of_queued {us : List Uop} (hout : t.out = s.out) (huq : t.uq = s.uq ++ us) :
    t.unlocks = s.unlocks + unlocksIn us := by
  rw [State.unlocks, State.unlocks, hout, huq, List.count_append, unlocksIn, Nat.add_assoc]

/-- A step that queues no UNLOCK and emits nothing leaves the number. -/
theorem State.unlocks_of_quiet {us : List Uop} (hout : t.out = s.out) (huq : t.uq = s.uq ++ us)
    (hus : unlocksIn us = 0) : t.unlocks = s.unlocks := by
  rw [State.unlocks_of_queued hout huq, hus, Nat.add_zero]

theorem unlocksIn_append (us vs : List Uop) : unlocksIn (us ++ vs) = unlocksIn us + unlocksIn vs := List.count_append

theorem unlocksIn_recordUops (m : Memory) {r : Record} {n : List Word} (hn : n.length = r.size) :
    unlocksIn (m.recordUops r n) = 0 := by
  refine List.count_eq_zero.mpr fun hu => ?_
  rcases mem_recordUops hn hu with e | e | ⟨⟨a, v, e⟩, -⟩
  · cases e
  · cases e
  · cases e

theorem unlocksIn_repairList (m : Memory) (r : Record) : unlocksIn (m.repairList r) = 0 := by
  refine List.count_eq_zero.mpr fun hu => ?_
  rcases repairList_cases m r with ⟨-, e⟩ | ⟨-, e⟩ <;> rw [e] at hu
  · cases hu
  · simp only [List.mem_cons, List.mem_append, List.not_mem_nil, or_false] at hu
    rcases hu with h | h | h
    · cases h
    · obtain ⟨⟨a, v, e⟩, -⟩ := mem_repairUops h
      cases e
    · cases h

theorem CenturyUops.unlocksIn {m : Memory} {us : List Uop} (h : CenturyUops m us) : unlocksIn us = 0 := by
  rcases h with rfl | rfl | ⟨c, f, rfl⟩
  · rfl
  · exact unlocksIn_repairList m .crec
  · exact unlocksIn_recordUops m rfl

/-! ### What the handlers queue -/

/-- BOOT queues at most the century's list. -/
theorem hostBoot_queues (p : Stamp) (s : State) : ∃ us, CenturyUops s.dur us ∧ (hostBoot p s).uq = s.uq ++ us := by
  have same : (hostBoot p s).uq = s.uq → ∃ us, CenturyUops s.dur us ∧ (hostBoot p s).uq = s.uq ++ us :=
    fun h => ⟨[], .inl rfl, by rw [h, List.append_nil]⟩
  rcases hostBoot_cases p s with ⟨-, e⟩ | ⟨-, -, e⟩ | ⟨-, hm, -, e⟩ | ⟨-, hm, -, e⟩
  · exact same (by rw [e]; rfl)
  · exact same (by rw [e]; rfl)
  · exact same (by rw [e, bootReady_eq hm]; rfl)
  · rcases bootRestore_cases p (disableTrigger (bootReady s)) with ⟨-, e'⟩ | ⟨-, e'⟩
    · exact same (by rw [e, e', bootReady_eq hm]; rfl)
    · obtain ⟨c, f, us, hus, hr⟩ := restoreCentury_queues (disableTrigger (bootReady s)) (stampFields p).yy
      have ready := disableTrigger_bootReady_eq hm
      have resumed : (resumeCount (restored p (disableTrigger (bootReady s)))).uq
          = (restored p (disableTrigger (bootReady s))).uq := by
        rcases resumeCount_cases (restored p (disableTrigger (bootReady s))) with ⟨-, r⟩ | ⟨-, r⟩ <;> rw [r] <;> rfl
      refine ⟨us, by rw [ready] at hus; exact hus, ?_⟩
      calc (hostBoot p s).uq
        _ = (restored p (disableTrigger (bootReady s))).uq := by rw [e, e', resumed]
        _ = (disableTrigger (bootReady s)).uq ++ us := congrArg State.uq hr
        _ = s.uq ++ us := by rw [ready]

theorem rollDay_queues (s : State) : ∃ us, CenturyUops s.dur us ∧ (rollDay s).uq = s.uq ++ us := by
  obtain ⟨c, f, us, hus, e⟩ := centBook_queues { s with days := s.days + 1 }
  exact ⟨us, hus, (finishDay_uq _).trans (congrArg State.uq e)⟩

/-- A count-up tick queues at most the century's list. -/
theorem tickUp_queues (s : State) : ∃ us, CenturyUops s.dur us ∧ (tickUp s).uq = s.uq ++ us := by
  have same {u : List Uop} : ∃ us, CenturyUops s.dur us ∧ u = u ++ us := ⟨[], .inl rfl, (List.append_nil u).symm⟩
  unfold tickUp
  split
  · exact same
  · unfold carryMinute
    split
    · exact same
    · unfold carryHour
      split
      · exact same
      · exact rollDay_queues (((s.showSec 0).showMin 0).showHr 0)

/-- The trigger's action emits RTC_RESET, and no UNLOCK. -/
theorem actTrigger_queues (s : State) : ∃ us, unlocksIn us = 0 ∧ (actTrigger s).uq = s.uq ++ us := by
  unfold actTrigger
  cases s.params.config
  · exact ⟨_, rfl, by rw [commit_eq]⟩
  · refine ⟨s.dur.recordUops .lts (stampWords s.tsLatch) ++ s.dur.recordUops .lflag [1] ++ [.emit eventRtcReset], ?_,
      by simp only [launch_eq, List.append_assoc]⟩
    rw [unlocksIn_append, unlocksIn_append, unlocksIn_recordUops _ (stampWords_length_lts _),
      unlocksIn_recordUops _ rfl]
    rfl

theorem hostCommission_queues (p : Stamp) (s : State) :
    ∃ us, unlocksIn us = 0 ∧ (hostCommission p s).uq = s.uq ++ us := by
  unfold hostCommission
  split
  · split
    · exact ⟨[], rfl, (List.append_nil _).symm⟩
    · refine ⟨s.dur.recordUops .cts (stampWords p) ++ s.dur.recordUops .cflag [1], ?_, by simp⟩
      rw [unlocksIn_append, unlocksIn_recordUops _ (stampWords_length_cts p), unlocksIn_recordUops _ rfl]
  · exact ⟨[], rfl, (List.append_nil _).symm⟩

/-! ### One step -/

/-- A µop moves its event from the queue to OUT. -/
theorem execUopStep_unlocks (h : execUopStep s = .next t) : t.unlocks = s.unlocks := by
  obtain ⟨u, us, hq, hp⟩ := execUopStep_next h
  rw [State.unlocks, State.unlocks, hq]
  rcases performUop_cases hp with
    ⟨_, _, rfl, -, -, rfl⟩ | ⟨_, _, rfl, -, -, rfl⟩ | ⟨rfl, rfl⟩ | ⟨rfl, rfl⟩ | ⟨e, rfl, -, rfl⟩
  case inr.inr.inr.inr =>
    simp only [List.count_append, List.count_cons, List.count_nil, beq_iff_eq, Uop.emit.injEq]
    omega
  all_goals simp

/-- TICK_DISPATCH adds an UNLOCK exactly when it enters UNLOCKING. -/
theorem dispatchTick_unlocks (s : State) :
    (s.eng = .counting ∧ (dispatchTick s).eng = .unlocking → (dispatchTick s).unlocks = s.unlocks + 1)
      ∧ (¬(s.eng = .counting ∧ (dispatchTick s).eng = .unlocking) → (dispatchTick s).unlocks = s.unlocks) := by
  have hout : (dispatchTick s).out = s.out := by rw [dispatchTick_frame]
  by_cases he : s.eng = .counting
  · cases hm : s.mode with
    | down =>
      rw [dispatchTick_down he hm] at hout ⊢
      rcases tickDown_engine { s with tickIfg := false } with ⟨e, huq⟩ | ⟨-, e, huq⟩
      · have hne : (tickDown { s with tickIfg := false }).eng ≠ .unlocking := by rw [e]; simp [he]
        exact ⟨fun h => absurd h.2 hne,
          fun _ => State.unlocks_of_quiet (us := []) hout (huq.trans (List.append_nil _).symm) rfl⟩
      · exact ⟨fun _ => State.unlocks_of_queued hout huq, fun h => absurd ⟨he, e⟩ h⟩
    | up =>
      rw [dispatchTick_up he hm] at hout ⊢
      obtain ⟨us, hus, huq⟩ := tickUp_queues { s with tickIfg := false }
      have hne : (tickUp { s with tickIfg := false }).eng ≠ .unlocking := by
        rcases tickUp_engine { s with tickIfg := false } with e | ⟨-, -, -, -, e⟩ <;> rw [e] <;> simp [he]
      exact ⟨fun h => absurd h.2 hne, fun _ => State.unlocks_of_quiet hout huq hus.unlocksIn⟩
  · rw [dispatchTick_other he]
    exact ⟨fun h => absurd h.1 he, fun _ => rfl⟩

/-- No other step than TICK_DISPATCH and POWER_LOSS changes the number. -/
theorem exec_unlocks (hi : i.labelClass ≠ .uop) (hp : i ≠ .powerLoss) (hd : i ≠ .tickDispatch)
    (h : exec i s = .next t) : t.unlocks = s.unlocks := by
  cases i with
  | boot p =>
    obtain ⟨-, rfl⟩ := (whenHostReady_next _ _ _).mp h
    obtain ⟨us, hus, huq⟩ := hostBoot_queues p s
    exact State.unlocks_of_quiet (by rw [hostBoot_frame]) huq hus.unlocksIn
  | unlockDone =>
    obtain ⟨-, rfl⟩ := (whenHostReady_next _ _ _).mp h
    rcases hostUnlockDone_cases s with ⟨-, e⟩ | ⟨-, e⟩ <;> rw [e] <;> rfl
  | commission p =>
    obtain ⟨-, rfl⟩ := (whenHostReady_next _ _ _).mp h
    obtain ⟨us, hus, huq⟩ := hostCommission_queues p s
    exact State.unlocks_of_quiet (by rw [hostCommission_frame]) huq hus
  | setTsLatch p => obtain ⟨-, rfl⟩ := (whenHostReady_next _ _ _).mp h; rfl
  | clearStatus => obtain ⟨-, rfl⟩ := (whenHostReady_next _ _ _).mp h; rfl
  | tickEdge => cases h; rfl
  | pinChange k lvl => obtain ⟨-, rfl⟩ := execPinChange_next h; rfl
  | powerLoss => exact absurd rfl hp
  | tickDispatch => exact absurd rfl hd
  | inputEntry =>
    obtain ⟨-, rfl⟩ := (whenEnabled_next _ _ _ _).mp h
    rw [enterInput_frame]
    rfl
  | settleDone =>
    obtain ⟨-, rfl⟩ := (whenEnabled_next _ _ _ _).mp h
    rcases settleInputs_cases s with ⟨f, e, a, hs⟩ | ⟨-, f, e, a, hs⟩ <;> rw [hs]
    · rfl
    · obtain ⟨us, hus, huq⟩ := actTrigger_queues { s with debActive := false }
      exact State.unlocks_of_quiet (by rw [actTrigger_frame]) huq hus
  | uopStep => exact execUopStep_unlocks h
  | _ => exact absurd rfl hi

/-- COUNTING goes to UNLOCKING by TICK_DISPATCH only: the table has one such row. -/
theorem eq_tickDispatch_of_unlocking (h : exec i s = .next t) (he : s.eng = .counting) (ht : t.eng = .unlocking) :
    i = .tickDispatch := by
  rcases engineMovesOnlyByTheTable i s t h with
    e | ⟨-, e⟩ | ⟨-, e, -⟩ | ⟨-, e, -⟩ | ⟨-, e, -⟩ | ⟨-, e, -⟩ | ⟨-, e, -⟩ | ⟨-, e, -⟩ | ⟨e, -⟩ | ⟨e, -⟩ | ⟨-, e, -⟩ <;>
    simp_all

/-- One label's part of the claim. -/
theorem exec_unlocks_iff (hi : i.labelClass ≠ .uop) (h : exec i s = .next t) (hp : t.powerUps = s.powerUps) :
    (s.eng = .counting ∧ t.eng = .unlocking → t.unlocks = s.unlocks + 1)
      ∧ (¬(s.eng = .counting ∧ t.eng = .unlocking) → t.unlocks = s.unlocks) := by
  have noLoss : i ≠ .powerLoss := by
    rintro rfl
    cases h
    exact absurd hp (Nat.succ_ne_self _)
  by_cases hd : i = .tickDispatch
  · subst hd
    obtain ⟨-, rfl⟩ := (whenEnabled_next _ _ _ _).mp h
    exact dispatchTick_unlocks s
  · exact ⟨fun he => absurd (eq_tickDispatch_of_unlocking h he.1 he.2) hd, fun _ => exec_unlocks hi noLoss hd h⟩

/-- Settles O58: a step runs one label, refuses a word, or sleeps. -/
theorem unlockIsEmittedOncePerCountdown : Obligations.UnlockIsEmittedOncePerCountdown := by
  intro s t h hp
  rcases step_cases h with ⟨k, -, hk⟩ | ⟨i, hi, he⟩ | rfl | rfl
  · exact exec_unlocks_iff (by cases k <;> decide) hk hp
  · exact exec_unlocks_iff (s := s.takeOffer) hi he hp
  · exact ⟨fun he => absurd (he.1.symm.trans he.2) nofun, fun _ => rfl⟩
  · exact ⟨fun he => absurd (he.1.symm.trans he.2) nofun, fun _ => rfl⟩

end Sys2Proof.Machine
end

section
/-! Who writes each field of the state, label by label (10_state R14 to R39). -/

namespace Sys2Proof.Machine

variable {s t : State} {i : Instr}

/-- What UNLOCK_DONE can write (44_host R138). -/
theorem hostUnlockDone_frame (s : State) :
    hostUnlockDone s = { s with
      eng := (hostUnlockDone s).eng, display := (hostUnlockDone s).display
      cmdReject := (hostUnlockDone s).cmdReject, rejectReason := (hostUnlockDone s).rejectReason } := by
  rcases hostUnlockDone_cases s with ⟨-, e⟩ | ⟨-, e⟩ <;> rw [e] <;> rfl

/-- Settles O59: each label's frame names the fields it can write; a µop writes the one field of its kind. -/
theorem registersHaveOnlyTheirWriters : Obligations.RegistersHaveOnlyTheirWriters := by
  intro i s t h
  by_cases hu : i = .uopStep ∨ i.labelClass = .uop
  · obtain ⟨u, us, hperf, huq, hp⟩ := exec_uop_cases hu h
    rw [hperf]
    rcases huq with rfl | rfl <;>
      rcases performUop_cases hp with
        ⟨_, _, rfl, -, -, rfl⟩ | ⟨_, _, rfl, -, -, rfl⟩ | ⟨rfl, rfl⟩ | ⟨rfl, rfl⟩ | ⟨_, rfl, -, rfl⟩ <;>
      simp [Uop.toInstr]
  obtain ⟨hq, hi⟩ := not_or.mp hu
  rw [performed_of_ne hq]
  cases i with
  | boot p =>
    obtain ⟨-, rfl⟩ := (whenHostReady_next _ _ _).mp h
    rw [hostBoot_frame]
    simp [Instr.labelClass]
  | unlockDone =>
    obtain ⟨-, rfl⟩ := (whenHostReady_next _ _ _).mp h
    rw [hostUnlockDone_frame]
    simp [Instr.labelClass]
  | commission p =>
    obtain ⟨-, rfl⟩ := (whenHostReady_next _ _ _).mp h
    rw [hostCommission_frame]
    simp [Instr.labelClass]
  | setTsLatch p =>
    obtain ⟨-, rfl⟩ := (whenHostReady_next _ _ _).mp h
    simp [Instr.labelClass]
  | clearStatus =>
    obtain ⟨-, rfl⟩ := (whenHostReady_next _ _ _).mp h
    simp [Instr.labelClass]
  | tickEdge => cases h; simp [Instr.labelClass]
  | pinChange k lvl =>
    obtain ⟨-, rfl⟩ := execPinChange_next h
    simp [Instr.labelClass, changePin]
  | powerLoss => cases h; simp [Instr.labelClass, powerCycle]
  | tickDispatch =>
    obtain ⟨-, rfl⟩ := (whenEnabled_next _ _ _ _).mp h
    rw [dispatchTick_frame]
    simp [Instr.labelClass]
  | inputEntry =>
    obtain ⟨-, rfl⟩ := (whenEnabled_next _ _ _ _).mp h
    rw [enterInput_frame]
    simp [Instr.labelClass]
  | settleDone =>
    obtain ⟨-, rfl⟩ := (whenEnabled_next _ _ _ _).mp h
    rw [settleInputs_frame]
    simp [Instr.labelClass]
  | uopStep => exact absurd rfl hq
  | _ => exact absurd rfl hi

end Sys2Proof.Machine
end

section
/-! A run of µops: what it makes of the durable memory, and how a run of a longer queue splits (42_durable R118,
R120). -/

namespace Sys2Proof.Machine

variable {s t : State} {m : Memory} {r : Record} {us vs : List Uop}

/-! ### The memory after a list of µops -/

/-- What an unprotected µop makes of the durable memory (42_durable R121). -/
def Memory.perform (m : Memory) : Uop → Memory
  | .dww a v => m.write a.toNat v
  | .wpu => m
  | .wpl => m
  | .emit _ => m

/-- The durable memory after the µops of the list, in order. `runUops_dur` says when a run of the queue gives it. -/
def Memory.performAll (m : Memory) (us : List Uop) : Memory := us.foldl Memory.perform m

@[simp] theorem Memory.performAll_nil (m : Memory) : m.performAll [] = m := rfl

@[simp] theorem Memory.performAll_cons (m : Memory) (u : Uop) (us : List Uop) :
    m.performAll (u :: us) = (m.perform u).performAll us := rfl

theorem Memory.performAll_append (m : Memory) (us vs : List Uop) :
    m.performAll (us ++ vs) = (m.performAll us).performAll vs := List.foldl_append

theorem Memory.perform_durableWord {a : Nat} (h : a < Config.durWords) (m : Memory) (v : Word) :
    m.perform (durableWord a v) = m.write a v := by
  have ha : (BitVec.ofNat 8 a).toNat = a := Nat.mod_eq_of_lt (h.trans (by decide))
  rw [durableWord, Memory.perform, ha]

/-- A word that no µop of the list writes keeps its value. -/
theorem Memory.performAll_read {b : Nat} (h : ∀ u ∈ us, ∀ a v, u = .dww a v → b ≠ a.toNat) :
    (m.performAll us).read b = m.read b := by
  induction us generalizing m with
  | nil => rfl
  | cons u us ih =>
    obtain ⟨hu, hus⟩ := List.forall_mem_cons.mp h
    refine (ih hus).trans ?_
    cases u with
    | dww a v => exact Memory.read_write_other v (hu a v rfl)
    | wpu => rfl
    | wpl => rfl
    | emit e => rfl

/-- A µop that writes no word of the record writes none of its addresses. -/
theorem ne_of_uopWrites_false {u : Uop} (h : uopWrites r u = false) {b : Nat} (hlo : r.base ≤ b)
    (hhi : b ≤ r.base + 2 * r.size) (a : BitVec 8) (v : Word) (e : u = .dww a v) : b ≠ a.toNat := by
  subst e
  simp only [uopWrites, Bool.and_eq_false_iff, decide_eq_false_iff_not] at h
  omega

theorem Memory.performAll_readDurable_of_spares (h : Spares r us) : (m.performAll us).readDurable r = m.readDurable r :=
  Memory.readDurable_congr fun _ hlo hhi => Memory.performAll_read fun u hu => ne_of_uopWrites_false (h u hu) hlo hhi

/-- The head of a queue that writes only while unprotected is not dropped, sets no WP_FAULT, and leaves such a queue
(42_durable R121, 20_memory R54). -/
theorem performUop_bracketed {u : Uop} (h : performUop u s = .next t) (hb : bracketed s.wp (u :: us) = true) :
    t.dur = s.dur.perform u ∧ bracketed t.wp us = true ∧ t.wpFault = s.wpFault := by
  rcases performUop_cases h with
    ⟨a, v, rfl, -, -, rfl⟩ | ⟨a, v, rfl, -, hw, -⟩ | ⟨rfl, rfl⟩ | ⟨rfl, rfl⟩ | ⟨e, rfl, -, rfl⟩
  · exact ⟨rfl, ((Bool.and_eq_true _ _).mp hb).2, rfl⟩
  · simp [bracketed, hw] at hb
  · exact ⟨rfl, hb, rfl⟩
  · exact ⟨rfl, hb, rfl⟩
  · exact ⟨rfl, hb, rfl⟩

/-! ### Runs of the queue -/

theorem runUops_cons {u : Uop} (hq : s.uq = u :: us) (h : performUop u { s with uq := us } = .next t) (k : Nat) :
    runUops (k + 1) s = runUops k t := by
  have run : exec .uopStep s = .next t := (execUopStep_cons hq).trans h
  rw [runUops, run]

theorem runUops_empty (hq : s.uq = []) (k : Nat) : runUops k s = s := by
  cases k with
  | zero => rfl
  | succ k =>
    have stop : exec .uopStep s = .fault .stepNotEnabled := execUopStep_empty hq
    rw [runUops, stop]

/-- A run ends for good where it stops early, so runs one after the other are one run. -/
theorem runUops_add (k j : Nat) (s : State) : runUops (k + j) s = runUops j (runUops k s) := by
  induction k generalizing s with
  | zero => rw [Nat.zero_add, runUops]
  | succ k ih =>
    rw [Nat.succ_add, runUops, runUops]
    cases h : exec .uopStep s with
    | next t => exact ih t
    | fault f => cases j <;> simp [runUops, h]
    | refused e => cases j <;> simp [runUops, h]

/-- What every UOP_STEP keeps, a run keeps. -/
theorem runUops_keeps {P : State → Prop} (hstep : ∀ s t, P s → execUopStep s = .next t → P t) (k : Nat) (h : P s) :
    P (runUops k s) := by
  induction k generalizing s with
  | zero => exact h
  | succ k ih =>
    rw [runUops]
    split
    next t ht => exact ih (hstep s t h ht)
    next => exact h
    next => exact h

/-- A run keeps the durable memory canonical. -/
theorem runUops_wf (k : Nat) (h : s.dur.wf = true) : (runUops k s).dur.wf = true :=
  runUops_keeps (P := fun s => s.dur.wf = true) (fun _ _ hs ht => execUopStep_wf ht hs) k h

/-- A run of µops that write no word of record r keeps r's words. -/
theorem runUops_read (k : Nat) (h : Spares r s.uq) {b : Nat} (hlo : r.base ≤ b) (hhi : b ≤ r.base + 2 * r.size) :
    (runUops k s).dur.read b = s.dur.read b := by
  have kept : Spares r (runUops k s).uq ∧ (runUops k s).dur.read b = s.dur.read b := by
    refine runUops_keeps (P := fun t => Spares r t.uq ∧ t.dur.read b = s.dur.read b) ?_ k ⟨h, rfl⟩
    rintro t t' ⟨hspare, hread⟩ ht
    obtain ⟨u, us, hq, hp⟩ := execUopStep_next ht
    obtain ⟨hu, hus⟩ := List.forall_mem_cons.mp (hq ▸ hspare)
    have huq : t'.uq = us := by rw [performUop_frame hp]
    exact ⟨huq ▸ hus, (performUop_read hp (ne_of_uopWrites_false hu hlo hhi)).trans hread⟩
  exact kept.2

theorem durableWrite_enqueue (s : State) (us : List Uop) (a : BitVec 8) (v : Word) :
    (s.enqueue us).durableWrite a v = (s.durableWrite a v).enqueue us := by
  rw [State.durableWrite, State.durableWrite, State.enqueue_wp]
  split <;> rfl

/-- A performed µop does not see the rest of the queue. -/
theorem performUop_enqueue {u : Uop} (h : performUop u s = .next t) (us : List Uop) :
    performUop u (s.enqueue us) = .next (t.enqueue us) := by
  cases u with
  | dww a v =>
    rw [performUop, performDww] at h ⊢
    split at h
    · cases h
      rw [if_pos ‹_›, durableWrite_enqueue]
    · cases h
  | wpu => cases h; rfl
  | wpl => cases h; rfl
  | emit e =>
    rw [performUop, performEmit] at h ⊢
    split at h
    · cases h
      rw [if_pos ‹_›]
      rfl
    · cases h

/-- A run of the queue's own µops is the same with more µops queued behind them. -/
theorem runUops_enqueue (hs : ∀ u ∈ s.uq, u.wellFormed = true) (us : List Uop) :
    runUops s.uq.length (s.enqueue us) = (runUops s.uq.length s).enqueue us
      ∧ (runUops s.uq.length s).uq = [] := by
  generalize hq : s.uq = q at hs
  induction q generalizing s with
  | nil => exact ⟨rfl, hq⟩
  | cons u q ih =>
    obtain ⟨hu, hs⟩ := List.forall_mem_cons.mp hs
    obtain ⟨t, ht⟩ := performUop_completes hu { s with uq := q }
    have htq : t.uq = q := by rw [performUop_frame ht]
    have hq' : (s.enqueue us).uq = u :: (q ++ us) := by rw [State.enqueue_uq, hq, List.cons_append]
    rw [List.length_cons, runUops_cons hq ht, runUops_cons hq' (performUop_enqueue ht us)]
    exact ih htq hs

/-- A run of a queue that writes only while unprotected makes of the durable memory what its µops say. -/
theorem runUops_dur (hs : ∀ u ∈ s.uq, u.wellFormed = true) (hb : bracketed s.wp s.uq = true) (j : Nat) :
    (runUops j s).dur = s.dur.performAll (s.uq.take j) := by
  generalize hq : s.uq = q at hs hb
  induction q generalizing s j with
  | nil => rw [runUops_empty hq, List.take_nil, Memory.performAll_nil]
  | cons u q ih =>
    cases j with
    | zero => rfl
    | succ j =>
      obtain ⟨hu, hs⟩ := List.forall_mem_cons.mp hs
      obtain ⟨t, ht⟩ := performUop_completes hu { s with uq := q }
      obtain ⟨hdur, hb, -⟩ := performUop_bracketed ht hb
      have htq : t.uq = q := by rw [performUop_frame ht]
      rw [runUops_cons hq ht, ih j htq hs hb, hdur, List.take_succ_cons, Memory.performAll_cons]

end Sys2Proof.Machine
end

section
/-! UOP_STEP and the four µops: each performs the head of the queue, and a legal state never drops a write (42_durable
R120 to R124). -/

namespace Sys2Proof.Machine

variable {s t : State}

/-- Settles O38: UOP_STEP and the head's own label perform the head alike. -/
theorem uopStepPerformsTheHead : Obligations.UopStepPerformsTheHead := fun s u us hq =>
  (execUopStep_cons hq).trans (exec_toInstr u { s with uq := us }).symm

/-- A DWW of an address inside the memory is the write, or its drop while protected. -/
theorem performDww_inside {a : BitVec 8} (h : a.toNat < Config.durWords) (v : Word) (s : State) :
    performDww a v s = .next (s.durableWrite a v) :=
  if_pos (decide_eq_true h)

theorem durableWrite_protected (h : s.wp = true) (a : BitVec 8) (v : Word) :
    s.durableWrite a v = { s with wpFault := true } :=
  if_pos h

theorem durableWrite_unprotected (h : s.wp = false) (a : BitVec 8) (v : Word) :
    s.durableWrite a v = { s with dur := s.dur.write a.toNat v } :=
  if_neg (Bool.eq_false_iff.mp h)

/-- Settles O41: the write goes through or is dropped by WP, and a read after a write tells the words apart. -/
theorem dwwWritesOneWord : Obligations.DwwWritesOneWord := by
  intro a v s ha
  have run : exec (.dww a v) s = .next (s.durableWrite a v) := performDww_inside ha v s
  constructor
  · intro hp
    rw [run, durableWrite_protected hp]
  · intro hp hwf
    rw [run, durableWrite_unprotected hp]
    exact ⟨_, rfl, rfl, Memory.read_write_same _ v hwf, fun b hb => Memory.read_write_other v hb⟩

/-- Settles O42: WPU and WPL have one result, and EMIT of a defined event its own. -/
theorem wpuWplEmitResults : Obligations.WpuWplEmitResults := fun e _ =>
  ⟨rfl, rfl, fun he => if_pos ((eventCodeOk_iff e).mpr he)⟩

/-- Settles O40: the head completes, its frame and the words it leaves are those of any µop, and each kind of head has
its own result. -/
theorem uopStepCompletes : Obligations.UopStepCompletes := by
  intro s u us hq hu
  obtain ⟨t, ht⟩ := performUop_completes hu { s with uq := us }
  refine ⟨t, (execUopStep_cons hq).trans ht, performUop_frame ht, fun b => performUop_read ht, ?_⟩
  rcases performUop_cases ht with
    ⟨a, v, rfl, -, -, rfl⟩ | ⟨a, v, rfl, -, -, rfl⟩ | ⟨rfl, rfl⟩ | ⟨rfl, rfl⟩ | ⟨e, rfl, -, rfl⟩
  · exact ⟨fun _ => rfl, nofun, nofun, nofun⟩
  · exact ⟨fun _ => rfl, nofun, nofun, nofun⟩
  · exact ⟨nofun, fun _ => rfl, nofun, nofun⟩
  · exact ⟨nofun, nofun, fun _ => rfl, nofun⟩
  · refine ⟨nofun, nofun, nofun, fun e' he => ?_⟩
    cases he
    rfl

/-! ### No protected write in a legal state (42_durable R121, 20_memory R54) -/

theorem execUopStep_wpFault (hinv : s.Inv) (h : execUopStep s = .next t) : t.wpFault = s.wpFault := by
  obtain ⟨u, us, hq, hp⟩ := execUopStep_next h
  obtain ⟨-, -, -, hb⟩ := hinv.durable
  obtain ⟨-, -, fault⟩ := performUop_bracketed (s := { s with uq := us }) hp (hq ▸ hb)
  exact fault

/-- Every label but a µop's own leaves WP_FAULT clear: CLEAR_STATUS and POWER_LOSS clear it, UOP_STEP meets no
protected write, and no other label writes it. -/
theorem exec_wpFault {i : Instr} (hi : i.labelClass ≠ .uop) (hinv : s.Inv) (hf : s.wpFault = false)
    (h : exec i s = .next t) : t.wpFault = false := by
  by_cases hu : i = .uopStep
  · subst hu
    exact (execUopStep_wpFault hinv h).trans hf
  by_cases hpl : i = .powerLoss
  · subst hpl
    cases h
    rfl
  by_cases hcs : i = .clearStatus
  · subst hcs
    obtain ⟨-, rfl⟩ := (whenHostReady_next _ _ _).mp h
    rfl
  obtain ⟨-, -, -, -, -, -, -, fault, -⟩ := registersHaveOnlyTheirWriters i s t h
  refine (fault hpl hcs fun a v e => ?_).trans hf
  rw [performed_of_ne hu] at e
  exact hi (e ▸ rfl)

/-- Settles O54: the step runs a label that leaves WP_FAULT clear, or leaves the flag as it is. -/
theorem protectedWritesAreUnreachable : Obligations.ProtectedWritesAreUnreachable := by
  intro s t hinv hf ht
  rcases step_cases ht with ⟨k, -, hk⟩ | ⟨i, hi, he⟩ | rfl | rfl
  · exact exec_wpFault (by cases k <;> decide) hinv hf hk
  · exact exec_wpFault (s := s.takeOffer) hi { hinv with } hf he
  · exact hf
  · exact hf

end Sys2Proof.Machine
end

section
/-! The two-phase write of a durable record: cut anywhere, the record reads as its old value, or as its new one once the
active flag is cleared (42_durable R115 to R118). -/

namespace Sys2Proof.Machine

variable {s : State} {m : Memory} {r : Record} {us vs : List Uop} {n : List Word}

/-! ### Runs of consecutive words -/

/-- The µops that write `n` to the words from `lo` on: the shape of both copies' writes. -/
def wordWrites (lo : Nat) (n : List Word) : List Uop := n.zipIdx.map fun p => durableWord (lo + p.2) p.1

theorem Record.writePrimary_eq (r : Record) (n : List Word) : r.writePrimary n = wordWrites (r.base + 1) n := rfl

theorem Record.writeBackup_eq (r : Record) (n : List Word) : r.writeBackup n = wordWrites (r.base + 1 + r.size) n := rfl

theorem wordWrites_concat (lo : Nat) (n : List Word) (v : Word) :
    wordWrites lo (n ++ [v]) = wordWrites lo n ++ [durableWord (lo + n.length) v] := by
  simp [wordWrites, List.zipIdx_append]

/-- Written from a canonical memory, the words read as written, and the memory stays canonical. -/
theorem performAll_wordWrites {lo : Nat} (hlo : lo + n.length ≤ Config.durWords) (hm : m.wf = true) :
    (m.performAll (wordWrites lo n)).wf = true
      ∧ ∀ k (hk : k < n.length), (m.performAll (wordWrites lo n)).read (lo + k) = n[k] := by
  induction n using List.reverseRecOn with
  | nil => exact ⟨hm, nofun⟩
  | append_singleton n v ih =>
    rw [List.length_append, List.length_singleton] at hlo
    obtain ⟨hwf, hread⟩ := ih (by omega)
    rw [wordWrites_concat, Memory.performAll_append, Memory.performAll_cons, Memory.performAll_nil,
      Memory.perform_durableWord (by omega)]
    refine ⟨Memory.wf_write v (by omega) hwf, fun k hk => ?_⟩
    rw [List.length_append, List.length_singleton] at hk
    by_cases hlast : k = n.length
    · subst hlast
      rw [Memory.read_write_same _ v hwf, List.getElem_concat_length]
      rfl
    · rw [Memory.read_write_other v (by omega), hread k (by omega), List.getElem_append_left]

theorem Memory.primaryOf_eq_of_read (hn : n.length = r.size)
    (h : ∀ k (hk : k < n.length), m.read (r.primaryAt k) = n[k]) : m.primaryOf r = n :=
  List.ext_getElem (by simp [hn]) fun k _ hk => by simpa [Memory.primaryOf] using h k hk

theorem Memory.backupOf_eq_of_read (hn : n.length = r.size)
    (h : ∀ k (hk : k < n.length), m.read (r.backupAt k) = n[k]) : m.backupOf r = n :=
  List.ext_getElem (by simp [hn]) fun k _ hk => by simpa [Memory.backupOf] using h k hk

/-- The primary copy's write, complete. -/
theorem performAll_writePrimary (hn : n.length = r.size) (hm : m.wf = true) :
    (m.performAll (r.writePrimary n)).wf = true ∧ (m.performAll (r.writePrimary n)).primaryOf r = n := by
  have hb := r.bound
  obtain ⟨hwf, hread⟩ := performAll_wordWrites (n := n) (lo := r.base + 1)
    (by rw [hn, Config.durWords]; omega) hm
  rw [Record.writePrimary_eq]
  exact ⟨hwf, Memory.primaryOf_eq_of_read hn hread⟩

/-- The backup copy's write, complete. -/
theorem performAll_writeBackup (hn : n.length = r.size) (hm : m.wf = true) :
    (m.performAll (r.writeBackup n)).wf = true ∧ (m.performAll (r.writeBackup n)).backupOf r = n := by
  have hb := r.bound
  obtain ⟨hwf, hread⟩ := performAll_wordWrites (n := n) (lo := r.base + 1 + r.size)
    (by rw [hn, Config.durWords]; omega) hm
  rw [Record.writeBackup_eq]
  exact ⟨hwf, Memory.backupOf_eq_of_read hn hread⟩

/-! ### What decides a record's value (42_durable R116) -/

theorem Memory.readDurable_active (h : m.read r.base ≠ 0) : m.readDurable r = m.backupOf r :=
  if_pos (bne_iff_ne.mpr h)

theorem Memory.readDurable_idle (h : m.read r.base = 0) : m.readDurable r = m.primaryOf r :=
  if_neg (by simpa [Memory.recordActive] using h)

theorem Memory.primaryOf_congr {m' : Memory} (h : ∀ b, r.base < b → b ≤ r.base + r.size → m'.read b = m.read b) :
    m'.primaryOf r = m.primaryOf r :=
  List.map_congr_left fun k hk => by
    have hk := List.mem_range.mp hk
    exact h _ (by simp only [Record.primaryAt]; omega) (by simp only [Record.primaryAt]; omega)

theorem Memory.backupOf_congr {m' : Memory}
    (h : ∀ b, r.base + r.size < b → b ≤ r.base + 2 * r.size → m'.read b = m.read b) : m'.backupOf r = m.backupOf r :=
  List.map_congr_left fun k hk => by
    have hk := List.mem_range.mp hk
    exact h _ (by simp only [Record.backupAt]; omega) (by simp only [Record.backupAt]; omega)

/-- Setting the active flag makes the backup the record's value. -/
theorem Memory.perform_setFlag (hm : m.wf = true) :
    (m.perform (durableWord r.base 1)).read r.base ≠ 0
      ∧ (m.perform (durableWord r.base 1)).readDurable r = m.backupOf r
      ∧ (m.perform (durableWord r.base 1)).wf = true := by
  have hb := r.bound
  have inside : r.base < Config.durWords := by rw [Config.durWords]; omega
  rw [Memory.perform_durableWord inside]
  have active : (m.write r.base 1).read r.base ≠ 0 := by
    rw [Memory.read_write_same _ _ hm]
    decide
  rw [Memory.readDurable_active active]
  exact ⟨active, Memory.backupOf_congr fun _ hlo _ => Memory.read_write_other _ (by omega), Memory.wf_write _ inside hm⟩

/-- Clearing the active flag makes the primary the record's value. -/
theorem Memory.perform_clearFlag (hm : m.wf = true) :
    (m.perform (durableWord r.base 0)).read r.base = 0
      ∧ (m.perform (durableWord r.base 0)).readDurable r = m.primaryOf r
      ∧ (m.perform (durableWord r.base 0)).wf = true := by
  have hb := r.bound
  have inside : r.base < Config.durWords := by rw [Config.durWords]; omega
  rw [Memory.perform_durableWord inside]
  have idle : (m.write r.base 0).read r.base = 0 := Memory.read_write_same _ _ hm
  rw [Memory.readDurable_idle idle]
  exact ⟨idle, Memory.primaryOf_congr fun _ hlo _ => Memory.read_write_other _ (by omega), Memory.wf_write _ inside hm⟩

/-! ### Lists that a power loss may cut anywhere -/

/-- Cut after any number of its µops, the list leaves record r reading as before. -/
def CutSafe (r : Record) (m : Memory) (us : List Uop) : Prop :=
  ∀ j, (m.performAll (us.take j)).readDurable r = m.readDurable r

theorem CutSafe.whole (h : CutSafe r m us) : (m.performAll us).readDurable r = m.readDurable r := by
  simpa using h us.length

theorem CutSafe.append (h : CutSafe r m us) (h' : CutSafe r (m.performAll us) vs) : CutSafe r m (us ++ vs) := by
  intro j
  rw [List.take_append]
  by_cases hj : j ≤ us.length
  · rw [Nat.sub_eq_zero_of_le hj, List.take_zero, List.append_nil]
    exact h j
  · rw [List.take_of_length_le (by omega), Memory.performAll_append]
    exact (h' _).trans h.whole

theorem CutSafe.single {u : Uop} (h : (m.perform u).readDurable r = m.readDurable r) : CutSafe r m [u]
  | 0 => rfl
  | j + 1 => by rwa [List.take_succ_cons, List.take_nil]

theorem CutSafe.of_spares (h : Spares r us) (m : Memory) : CutSafe r m us :=
  fun _ => Memory.performAll_readDurable_of_spares fun u hu => h u (List.mem_of_mem_take hu)

/-- A cut list of writes between two bounds leaves the words outside them. -/
theorem performAll_take_read {lo hi b : Nat} (h : ∀ u ∈ us, ∃ a v, u = .dww a v ∧ lo < a.toNat ∧ a.toNat ≤ hi)
    (hb : b ≤ lo ∨ hi < b) (j : Nat) : (m.performAll (us.take j)).read b = m.read b := by
  refine Memory.performAll_read fun u hu a v e => ?_
  obtain ⟨a', v', e', hlo, hhi⟩ := h u (List.mem_of_mem_take hu)
  obtain ⟨rfl, -⟩ := Uop.dww.inj (e.symm.trans e')
  omega

/-- While the active flag is set, the primary copy's words are written unseen. -/
theorem CutSafe.writePrimary (hn : n.length = r.size) (h : m.read r.base ≠ 0) : CutSafe r m (r.writePrimary n) := by
  intro j
  have unwritten : ∀ b, b = r.base ∨ r.base + r.size < b →
      (m.performAll ((r.writePrimary n).take j)).read b = m.read b := fun b hb =>
    performAll_take_read (fun _ => mem_writePrimary hn) (by omega) j
  rw [Memory.readDurable_active h, Memory.readDurable_active (by rwa [unwritten _ (.inl rfl)])]
  exact Memory.backupOf_congr fun b hlo _ => unwritten b (.inr hlo)

/-- While the active flag is clear, the backup copy's words are written unseen, and the flag stays clear. -/
theorem CutSafe.writeBackup (hn : n.length = r.size) (h : m.read r.base = 0) : CutSafe r m (r.writeBackup n) := by
  intro j
  have unwritten : ∀ b, b ≤ r.base + r.size →
      (m.performAll ((r.writeBackup n).take j)).read b = m.read b := fun b hb =>
    performAll_take_read (fun _ => mem_writeBackup hn) (.inl hb) j
  rw [Memory.readDurable_idle h, Memory.readDurable_idle (by rwa [unwritten _ (Nat.le_add_right _ _)])]
  exact Memory.primaryOf_congr fun b _ hhi => unwritten b hhi

/-! ### The phases of a record's write (42_durable R117) -/

theorem Memory.repairUops_idle (h : m.read r.base = 0) : m.repairUops r = [] :=
  if_neg (by simpa [Memory.recordActive] using h)

theorem Memory.repairUops_active (h : m.read r.base ≠ 0) :
    m.repairUops r = r.writePrimary (m.backupOf r) ++ [durableWord r.base 0] :=
  if_pos (bne_iff_ne.mpr h)

/-- The repair phase may be cut anywhere, and leaves a clear active flag. -/
theorem repairUops_safe (hm : m.wf = true) (r : Record) :
    CutSafe r m (m.repairUops r) ∧ (m.performAll (m.repairUops r)).wf = true
      ∧ (m.performAll (m.repairUops r)).read r.base = 0 := by
  by_cases ha : m.read r.base = 0
  · rw [Memory.repairUops_idle ha]
    exact ⟨fun _ => by rw [List.take_nil, Memory.performAll_nil], hm, ha⟩
  · obtain ⟨hwf, hprimary⟩ := performAll_writePrimary (m.backupOf_length r) hm
    obtain ⟨hidle, hvalue, hclean⟩ := Memory.perform_clearFlag (r := r) hwf
    have copied : CutSafe r m (r.writePrimary (m.backupOf r)) := .writePrimary (m.backupOf_length r) ha
    have cleared : CutSafe r (m.performAll (r.writePrimary (m.backupOf r))) [durableWord r.base 0] :=
      .single (by rw [hvalue, hprimary, copied.whole, Memory.readDurable_active ha])
    rw [Memory.repairUops_active ha, Memory.performAll_append]
    exact ⟨copied.append cleared, hclean, hidle⟩

/-- A record's write up to phase 4's clearing of the active flag. -/
def Memory.untilClear (m : Memory) (r : Record) (n : List Word) : List Uop :=
  [.wpu] ++ (m.repairUops r ++ (r.writeBackup (m.readDurable r) ++ ([durableWord r.base 1] ++ r.writePrimary n)))

theorem Memory.recordUops_eq (m : Memory) (r : Record) (n : List Word) :
    m.recordUops r n = m.untilClear r n ++ [durableWord r.base 0] ++ [.wpl] := by
  simp [Memory.recordUops, Memory.untilClear]

/-- Up to the clearing, the old value stands at every cut, and then the primary copy holds the new one. -/
theorem untilClear_safe (hm : m.wf = true) (hn : n.length = r.size) :
    CutSafe r m (m.untilClear r n) ∧ (m.performAll (m.untilClear r n)).wf = true
      ∧ (m.performAll (m.untilClear r n)).primaryOf r = n := by
  have hlen := m.readDurable_length r
  obtain ⟨repaired, hwf, hidle⟩ := repairUops_safe hm r
  have saved : CutSafe r _ (r.writeBackup (m.readDurable r)) := .writeBackup hlen hidle
  obtain ⟨hwf, hbackup⟩ := performAll_writeBackup hlen hwf
  obtain ⟨hactive, hvalue, hwf⟩ := Memory.perform_setFlag hwf
  have flagged : CutSafe r _ [durableWord r.base 1] := .single (by rw [hvalue, hbackup, saved.whole, repaired.whole])
  have written : CutSafe r _ (r.writePrimary n) := .writePrimary hn hactive
  obtain ⟨hwf, hprimary⟩ := performAll_writePrimary hn hwf
  simp only [Memory.untilClear, Memory.performAll_append]
  exact ⟨(CutSafe.single rfl).append (repaired.append (saved.append (flagged.append written))), hwf, hprimary⟩

/-- A record's write, cut: the old value before the clearing completes, the new one from there on. -/
theorem recordUops_cut (hm : m.wf = true) (hn : n.length = r.size) (j : Nat) :
    (j + 1 < (m.recordUops r n).length → (m.performAll ((m.recordUops r n).take j)).readDurable r = m.readDurable r)
      ∧ ((m.recordUops r n).length ≤ j + 1 → (m.performAll ((m.recordUops r n).take j)).readDurable r = n) := by
  obtain ⟨safe, hwf, hprimary⟩ := untilClear_safe hm hn
  obtain ⟨-, hvalue, -⟩ := Memory.perform_clearFlag (r := r) hwf
  simp only [Memory.recordUops_eq, List.length_append, List.length_singleton]
  constructor
  · intro hj
    rw [List.append_assoc, List.take_append_of_le_length (by omega)]
    exact safe j
  · intro hj
    have locked : Spares r [.wpl] := by simp [Spares, uopWrites]
    rw [List.take_append, List.take_of_length_le (by rw [List.length_append, List.length_singleton]; omega), Memory.performAll_append,
      (CutSafe.of_spares locked _) _, Memory.performAll_append]
    exact hvalue.trans hprimary

/-- The repair of a record on its own may be cut anywhere. -/
theorem repairList_safe (hm : m.wf = true) (r : Record) : CutSafe r m (m.repairList r) := by
  obtain ⟨repaired, -, -⟩ := repairUops_safe hm r
  rcases repairList_cases m r with ⟨-, e⟩ | ⟨-, e⟩ <;> rw [e]
  · exact fun _ => by rw [List.take_nil, Memory.performAll_nil]
  · exact (CutSafe.single rfl : CutSafe r m [.wpu]).append (repaired.append (.single rfl))

/-! ### The write's and the repair's list, word for word (42_durable R117, 44_host R137) -/

theorem Memory.recordUops_length (m : Memory) (r : Record) (hn : n.length = r.size) :
    (m.recordUops r n).length = 2 * r.size + 4 + (m.repairUops r).length := by
  simp only [Memory.recordUops, List.length_append, List.length_singleton, Record.writeBackup_length,
    Record.writePrimary_length, Memory.readDurable_length, hn]
  omega

/-- The write reads its record only. -/
theorem Memory.recordUops_congr {m' : Memory} (h : ∀ b, r.base ≤ b → b ≤ r.base + 2 * r.size → m'.read b = m.read b)
    (n : List Word) : m'.recordUops r n = m.recordUops r n := by
  have hflag : m'.recordActive r = m.recordActive r := by
    rw [Memory.recordActive, Memory.recordActive, h _ (Nat.le_refl _) (Nat.le_add_right _ _)]
  have hbackup : m'.backupOf r = m.backupOf r := Memory.backupOf_congr fun b hlo hhi => h b (by omega) hhi
  rw [Memory.recordUops, Memory.recordUops, Memory.repairUops, Memory.repairUops, hflag, hbackup,
    Memory.readDurable_congr h]

/-! ### Runs from a state (42_durable R118) -/

/-- The repair's run: the bracket opens with a WPU, so every cut of it is a cut of its µop list. -/
theorem runUops_repairRecord (hq : s.uq = []) (r : Record) (j : Nat) :
    (runUops j (s.repairRecord r)).dur = s.dur.performAll ((s.dur.repairList r).take j) := by
  have huq : (s.repairRecord r).uq = s.dur.repairList r := by rw [State.repairRecord_uq, hq, List.nil_append]
  have hlegal := uopLegal_repairList s.dur r
  have hbracket := bracketed_repairList s.dur r []
  rw [List.append_nil] at hbracket
  rcases repairList_cases s.dur r with ⟨-, e⟩ | ⟨-, e⟩
  · rw [runUops_empty (huq.trans e), e, List.take_nil, Memory.performAll_nil, State.repairRecord_dur]
  · rw [runUops_dur (by rw [huq]; exact fun u hu => wellFormed_of_uopLegal (hlegal u hu))
      (by rw [huq]; rw [e] at hbracket ⊢; exact hbracket), huq, State.repairRecord_dur]

/-- Earlier µops that spare a record leave the list of its write. -/
theorem runUops_recordUops (k : Nat) (h : Spares r s.uq) (n : List Word) :
    (runUops k s).dur.recordUops r n = s.dur.recordUops r n :=
  Memory.recordUops_congr (fun _ hlo hhi => runUops_read k h hlo hhi) n

/-- Behind a queue of well-formed µops, a record's write runs as if it were queued after them. -/
theorem runUops_writeDurable (hq : ∀ u ∈ s.uq, u.wellFormed = true) (hn : n.length = r.size) (j : Nat) :
    (runUops (s.uq.length + j) (s.writeDurable r n)).dur
      = (runUops s.uq.length s).dur.performAll ((s.dur.recordUops r n).take j) := by
  obtain ⟨hrun, hempty⟩ := runUops_enqueue hq (s.dur.recordUops r n)
  generalize runUops s.uq.length s = t at hrun hempty ⊢
  have huq : (t.enqueue (s.dur.recordUops r n)).uq = s.dur.recordUops r n := by
    rw [State.enqueue_uq, hempty, List.nil_append]
  have hbracket := bracketed_recordUops (m := s.dur) hn t.wp []
  rw [List.append_nil] at hbracket
  rw [runUops_add, State.writeDurable, hrun, runUops_dur, huq, State.enqueue_dur]
  · rw [huq]
    exact fun u hu => wellFormed_of_uopLegal (uopLegal_recordUops hn u hu)
  · rw [huq]
    exact hbracket

/-- Settles O44: the earlier µops leave the record's words, and of the record's own µops every cut is safe up to the
clearing of the flag. -/
theorem crashSafety : Obligations.CrashSafety := by
  intro r n j s hwf hn hq
  have hr : Spares r s.uq := fun u hu => (hq u hu).2
  have hdur := runUops_writeDurable (fun u hu => (hq u hu).1) hn j
  obtain ⟨old, new⟩ := recordUops_cut (runUops_wf s.uq.length hwf) hn j
  rw [runUops_recordUops _ hr, ← hdur] at old new
  have before : (runUops s.uq.length s).dur.readDurable r = s.dur.readDurable r :=
    Memory.readDurable_congr fun _ hlo hhi => runUops_read _ hr hlo hhi
  refine ⟨powerCycle _, rfl, fun hj => (old hj).trans before, new, fun r' hne => ?_⟩
  exact (congrArg (Memory.readDurable · r') hdur).trans (CutSafe.of_spares (Spares.recordUops _ hne.symm hn) _ j)

/-- Settles O43: the lengths by the repair's, the words by reading the list out, the cut by the repair's safety. -/
theorem recordWriteSequence : Obligations.RecordWriteSequence := by
  refine ⟨fun m r n hn => ?_, fun m v hidle => ?_, fun m hactive => repairList_crec hactive, fun r r' j s hq hwf => ?_⟩
  · have hlen := m.recordUops_length r hn
    obtain ⟨ws, shape, -⟩ := recordUops_shape (m := m) hn
    refine ⟨fun h => ?_, fun h => ?_, ?_, ?_⟩
    · rw [hlen, Memory.repairUops_idle h, List.length_nil]
    · rw [hlen, Memory.repairUops_active h, List.length_append, Record.writePrimary_length, Memory.backupOf_length,
        List.length_singleton]
      omega
    · rw [shape, List.head?_cons]
    · rw [shape, ← List.cons_append, List.getLast?_concat]
  · have idle : m.read (Record.base .lflag) = 0 := hidle
    rw [Memory.recordUops, Memory.repairUops_idle idle, Memory.readDurable_idle idle]
    rfl
  · rw [runUops_repairRecord hq]
    by_cases hr : r = r'
    · subst hr
      exact repairList_safe hwf r j
    · exact CutSafe.of_spares (Spares.repairList _ hr) _ j

end Sys2Proof.Machine
end

section
/-! The increment of BTN_INC: the digit or the unit it steps, and what the years cap leaves (10_state R22, 43_input R131
to R134). -/

namespace Sys2Proof.Machine

variable {t : Setting}

/-! ### The clamp (43_input R132) -/

/-- A capped value is what the clamp leaves, so it leaves it as it is. -/
theorem Setting.YearsCapped.clampUnit_digit (h : t.YearsCapped) (j : Fin 5) : t.clampUnit.digit j = t.digit j := by
  by_cases hu : t.unit = .years
  · obtain ⟨h3, h4, h2, hlow⟩ := h hu
    obtain ⟨c0, c1, c2, c3, c4⟩ := t.capHundreds_digit
    have keep : t.capHundreds.digit j = t.digit j := by
      match j with
      | 0 => exact c0
      | 1 => exact c1
      | 2 => exact c2.trans (Nat.min_eq_left h2)
      | 3 => exact c3.trans h3.symm
      | 4 => exact c4.trans h4.symm
    rw [Setting.clampUnit, if_pos hu, Setting.clearBelowHundred]
    split
    case isFalse => exact keep
    case isTrue hc =>
      obtain ⟨h0, h1⟩ := hlow (by rwa [c2.trans (Nat.min_eq_left h2)] at hc)
      by_cases j1 : j = 1
      · subst j1
        rw [Setting.digit_setDigit_same _ _ (by decide), h1]
      · rw [Setting.digit_setDigit_other _ _ j1]
        by_cases j0 : j = 0
        · subst j0
          rw [Setting.digit_setDigit_same _ _ (by decide), h0]
        · rw [Setting.digit_setDigit_other _ _ j0]
          exact keep
  · rw [Setting.clampUnit_other hu]

/-- The clamp of any value in YEARS. -/
theorem Setting.clampUnit_years (h : t.unit = .years) :
    t.clampUnit.digit 3 = 0 ∧ t.clampUnit.digit 4 = 0 ∧ t.clampUnit.digit 2 = Nat.min (t.digit 2) 1
      ∧ (t.digit 2 = 0 → t.clampUnit.digit 0 = t.digit 0 ∧ t.clampUnit.digit 1 = t.digit 1)
      ∧ (t.digit 2 ≠ 0 → t.clampUnit.digit 0 = 0 ∧ t.clampUnit.digit 1 = 0) := by
  obtain ⟨c0, c1, c2, c3, c4⟩ := t.capHundreds_digit
  rw [Setting.clampUnit, if_pos h, Setting.clearBelowHundred]
  by_cases hz : t.digit 2 = 0
  · have hc : t.capHundreds.digit 2 ≠ 1 := by rw [c2, hz]; decide
    rw [if_neg hc]
    exact ⟨c3, c4, c2, fun _ => ⟨c0, c1⟩, fun hn => absurd hz hn⟩
  · have hc : t.capHundreds.digit 2 = 1 := c2.trans (Nat.min_eq_right (Nat.pos_of_ne_zero hz))
    rw [if_pos hc]
    simp [Setting.digit_setDigit_other, c2, c3, c4, hz]

/-! ### One increment (43_input R131, R133) -/

/-- What the digit under the cursor becomes: one more, or 0 past its greatest value. -/
def Setting.nextDigit (t : Setting) (k : Fin 5) : Nat := if t.digit k + 1 > t.maxDigit k then 0 else t.digit k + 1

theorem Setting.increment_atUnit (h : t.cursor = 0) :
    t.increment = Setting.clampUnit { t with unit := t.unit.next } := by
  rw [Setting.increment, Setting.cursorDigit_zero h]

theorem Setting.increment_atDigit {k : Fin 5} (h : t.cursor = k.succ) :
    t.increment = (t.setDigit k (t.nextDigit k)).clampUnit := by
  rw [Setting.increment, Setting.cursorDigit_succ h]
  rfl

theorem Setting.increment_cursor (t : Setting) : t.increment.cursor = t.cursor := by
  unfold Setting.increment
  split <;> exact Setting.clampUnit_cursor _

theorem Setting.nextDigit_lt (t : Setting) (k : Fin 5) : t.nextDigit k < 16 := by
  have hmax := t.maxDigit_le k
  unfold Setting.nextDigit
  split <;> omega

/-- A digit that runs to 9 steps modulo 10. -/
theorem Setting.nextDigit_of_maxNine {k : Fin 5} (hd : t.digit k ≤ 9) (hm : t.maxDigit k = 9) :
    t.nextDigit k = (t.digit k + 1) % 10 := by
  rw [Setting.nextDigit, hm]
  split <;> omega

/-- A digit that is always 0 stays 0. -/
theorem Setting.nextDigit_of_maxZero {k : Fin 5} (hm : t.maxDigit k = 0) : t.nextDigit k = 0 := by
  rw [Setting.nextDigit, hm, if_pos (Nat.succ_pos _)]

/-- The hundreds digit of a years value toggles. -/
theorem Setting.nextDigit_of_maxOne {k : Fin 5} (hd : t.digit k ≤ 1) (hm : t.maxDigit k = 1) :
    t.nextDigit k = (t.digit k + 1) % 2 := by
  rw [Setting.nextDigit, hm]
  split <;> omega

theorem Setting.maxDigit_other (h : t.unit ≠ .years) (k : Fin 5) : t.maxDigit k = 9 := if_neg h

theorem Setting.maxDigit_high (h : t.unit = .years) {k : Fin 5} (hk : 3 ≤ k.val) : t.maxDigit k = 0 := by
  rw [Setting.maxDigit, if_pos h, if_pos hk]

theorem Setting.maxDigit_hundreds (h : t.unit = .years) : t.maxDigit 2 = 1 := by
  rw [Setting.maxDigit, if_pos h]
  rfl

theorem Setting.maxDigit_low (h : t.unit = .years) {k : Fin 5} (hk : k.val < 2) :
    t.maxDigit k = if t.digit 2 = 1 then 0 else 9 := by
  rw [Setting.maxDigit, if_pos h, if_neg (by omega), if_neg (by omega)]

/-- One increment at a digit that leaves the value capped, as every one below YEARS does: that digit steps, and no
other changes. -/
theorem Setting.increment_digit {k : Fin 5} (hk : t.cursor = k.succ)
    (h : (t.setDigit k (t.nextDigit k)).YearsCapped) :
    t.increment.unit = t.unit ∧ t.increment.digit k = t.nextDigit k
      ∧ ∀ j, j ≠ k → t.increment.digit j = t.digit j := by
  rw [Setting.increment_atDigit hk]
  refine ⟨Setting.clampUnit_unit _, ?_, fun j hj => ?_⟩
  · rw [h.clampUnit_digit, Setting.digit_setDigit_same _ _ (t.nextDigit_lt k)]
  · rw [h.clampUnit_digit, Setting.digit_setDigit_other _ _ hj]

/-- Below YEARS every digit runs from 0 to 9. -/
theorem Setting.increment_belowYears (hd : t.DigitsLegal) {k : Fin 5} (hk : t.cursor = k.succ) (hu : t.unit ≠ .years) :
    t.increment.unit = t.unit ∧ t.increment.digit k = (t.digit k + 1) % 10
      ∧ ∀ j, j ≠ k → t.increment.digit j = t.digit j := by
  rw [← Setting.nextDigit_of_maxNine (hd k) (Setting.maxDigit_other hu k)]
  exact Setting.increment_digit hk fun h => absurd h hu

/-- In YEARS the two highest digits are 0, and stepping one changes nothing. -/
theorem Setting.increment_high (hy : t.YearsCapped) {k : Fin 5} (hk : t.cursor = k.succ) (hu : t.unit = .years)
    (h3 : 3 ≤ k.val) (j : Fin 5) : t.increment.digit j = t.digit j := by
  obtain ⟨d3, d4, -, -⟩ := hy hu
  have hz : t.digit k = 0 := by
    obtain rfl | rfl : k = 3 ∨ k = 4 := by omega
    · exact d3
    · exact d4
  have stepped := Setting.nextDigit_of_maxZero (Setting.maxDigit_high hu h3)
  have same (i : Fin 5) : (t.setDigit k (t.nextDigit k)).digit i = t.digit i := by
    by_cases hi : i = k
    · rw [hi, Setting.digit_setDigit_same _ _ (t.nextDigit_lt k), stepped, hz]
    · exact Setting.digit_setDigit_other _ _ hi
  have capped : (t.setDigit k (t.nextDigit k)).YearsCapped := by
    simpa only [Setting.YearsCapped, same, Setting.setDigit_unit] using hy
  rw [Setting.increment_atDigit hk, capped.clampUnit_digit, same]

/-- In YEARS the hundreds digit toggles, and the clamp clears the lower ones when it becomes 1. -/
theorem Setting.increment_hundreds (hy : t.YearsCapped) (hk : t.cursor = Fin.succ 2) (hu : t.unit = .years) :
    t.increment.digit 2 = (t.digit 2 + 1) % 2 ∧ t.increment.digit 3 = 0 ∧ t.increment.digit 4 = 0
      ∧ (t.digit 2 = 0 → t.increment.digit 0 = 0 ∧ t.increment.digit 1 = 0)
      ∧ (t.digit 2 = 1 → t.increment.digit 0 = t.digit 0 ∧ t.increment.digit 1 = t.digit 1) := by
  obtain ⟨-, -, d2, -⟩ := hy hu
  have stepped := Setting.nextDigit_of_maxOne d2 (Setting.maxDigit_hundreds hu)
  obtain ⟨c3, c4, c2, kept, cleared⟩ := Setting.clampUnit_years (t := t.setDigit 2 (t.nextDigit 2)) hu
  rw [Setting.digit_setDigit_same _ _ (t.nextDigit_lt 2), stepped] at c2 kept cleared
  rw [Setting.digit_setDigit_other _ _ (by decide), Setting.digit_setDigit_other _ _ (by decide)] at kept
  rw [← stepped] at c2 kept cleared
  rw [Setting.increment_atDigit hk]
  refine ⟨?_, c3, c4, fun h => cleared ?_, fun h => kept ?_⟩
  · rw [c2, stepped]
    exact Nat.min_eq_left (by omega)
  · rw [stepped, h]
    decide
  · rw [stepped, h]

/-- In YEARS a lower digit runs from 0 to 9 under a hundreds digit of 0, and stays 0 under one of 1. -/
theorem Setting.increment_low (hd : t.DigitsLegal) (hy : t.YearsCapped) {k : Fin 5} (hk : t.cursor = k.succ)
    (hu : t.unit = .years) (h2 : k.val < 2) :
    t.increment.digit k = (if t.digit 2 = 1 then 0 else (t.digit k + 1) % 10)
      ∧ ∀ j, j ≠ k → t.increment.digit j = t.digit j := by
  obtain ⟨d3, d4, d2, low⟩ := hy hu
  have hmax := Setting.maxDigit_low hu h2
  have stepped : t.nextDigit k = if t.digit 2 = 1 then 0 else (t.digit k + 1) % 10 := by
    split
    case isTrue h => exact Setting.nextDigit_of_maxZero (hmax.trans (if_pos h))
    case isFalse h => exact Setting.nextDigit_of_maxNine (hd k) (hmax.trans (if_neg h))
  have other {j : Fin 5} (hj : j ≠ k) : (t.setDigit k (t.nextDigit k)).digit j = t.digit j :=
    Setting.digit_setDigit_other _ _ hj
  have capped : (t.setDigit k (t.nextDigit k)).YearsCapped := by
    intro _
    rw [other (by omega), other (by omega), other (by omega)]
    refine ⟨d3, d4, d2, fun h => ?_⟩
    have zero (j : Fin 5) (hj : t.digit j = 0) : (t.setDigit k (t.nextDigit k)).digit j = 0 := by
      by_cases e : j = k
      · rw [e, Setting.digit_setDigit_same _ _ (t.nextDigit_lt k), stepped, if_pos h]
      · rw [other e, hj]
    obtain ⟨h0, h1⟩ := low h
    exact ⟨zero 0 h0, zero 1 h1⟩
  obtain ⟨-, digit, others⟩ := Setting.increment_digit hk capped
  exact ⟨digit.trans stepped, others⟩

/-- At the units position the unit steps; the digits change only where it becomes YEARS. -/
theorem Setting.increment_unit (h : t.cursor = 0) :
    t.increment.unit = t.unit.next ∧ (t.unit ≠ .days → t.increment.dig = t.dig) := by
  rw [Setting.increment_atUnit h]
  refine ⟨Setting.clampUnit_unit _, fun hu => ?_⟩
  have hnext : t.unit.next ≠ .years := by revert hu; cases t.unit <;> decide
  rw [Setting.clampUnit_other (t := { t with unit := t.unit.next }) hnext]

/-- Becoming YEARS clamps the digits. -/
theorem Setting.increment_toYears (h : t.cursor = 0) (hu : t.unit = .days) :
    t.increment.digit 3 = 0 ∧ t.increment.digit 4 = 0 ∧ t.increment.digit 2 = Nat.min (t.digit 2) 1
      ∧ (t.digit 2 = 0 → t.increment.digit 0 = t.digit 0 ∧ t.increment.digit 1 = t.digit 1)
      ∧ (t.digit 2 ≠ 0 → t.increment.digit 0 = 0 ∧ t.increment.digit 1 = 0) := by
  rw [Setting.increment_atUnit h]
  exact Setting.clampUnit_years (t := { t with unit := t.unit.next }) (by rw [hu]; rfl)

/-- Settles O31, by the cursor's position and the unit. -/
theorem incrementStepsDigitOrUnit : Obligations.IncrementStepsDigitOrUnit := by
  intro t hd hy
  refine ⟨t.increment_cursor, fun k hk hu => Setting.increment_belowYears hd hk hu, fun k hk hu => ?years,
    fun hc => ?units⟩
  case years =>
    refine ⟨?_, Setting.increment_high hy hk hu, fun h2 => ?_, Setting.increment_low hd hy hk hu⟩
    · rw [Setting.increment_atDigit hk, Setting.clampUnit_unit]
      exact hu
    · obtain rfl : k = 2 := Fin.ext h2
      exact Setting.increment_hundreds hy hk hu
  case units =>
    obtain ⟨unit, dig⟩ := Setting.increment_unit hc
    rw [unit]
    exact ⟨fun h => by rw [h]; rfl, fun h => by rw [h]; rfl, fun h => by rw [h]; rfl, dig,
      fun h => ⟨by rw [h]; rfl, Setting.increment_toYears hc h⟩⟩

/-- A capped value in YEARS is 100, or has two digits. -/
theorem Setting.value_le_hundred (hd : t.DigitsLegal) (hy : t.YearsCapped) (hu : t.unit = .years) : t.value ≤ 100 := by
  obtain ⟨d3, d4, d2, low⟩ := hy hu
  have d0 := hd 0
  have d1 := hd 1
  rw [Setting.value, d3, d4]
  by_cases h : t.digit 2 = 1
  · obtain ⟨z0, z1⟩ := low h
    omega
  · omega

/-- Settles O32: an increment ends in a clamp, an advance leaves the digits, and a capped value has two digits or is
100. -/
theorem yearsCapIsKept : Obligations.YearsCapIsKept := fun t hd hy =>
  ⟨Setting.DigitsLegal.increment hd, t.increment_yearsCapped, hd, hy, Setting.value_le_hundred hd hy⟩

end Sys2Proof.Machine
end

section
/-! The setting page and the buttons: what the painter leaves, and which button acts in INPUT_ENTRY (40_display R92,
43_input R126, R130, R133). -/

namespace Sys2Proof.Machine

variable {s : State} {m : SegMap} {b : Buffer} {p : Fin 6} {g : Glyph} {d : Display} {v : Setting}

/-! ### The setting page (40_display R92) -/

theorem blankBuffer_shows (h : layoutOk m = true) (b : Buffer) (d : Display) (p : Fin 6) :
    (blankBuffer m b d).Shows m b p 0 :=
  foldl_shows (f := fun d p => writeBlank m b p d) (fun _ => writeGlyph_shows h)
    (fun _ _ hq => writeGlyph_shows_other h hq) (mem_positions p) d

theorem blankBuffer_shows_buffer {b' : Buffer} (hb : b ≠ b') (h : d.Shows m b p g) :
    (blankBuffer m b' d).Shows m b p g :=
  h.congr fun w => blankBuffer_read_buffer m hb d w

theorem settingGlyph_zero (t : Setting) : settingGlyph t 0 = unitGlyph t.unit := rfl

theorem settingGlyph_succ (t : Setting) (k : Fin 5) : settingGlyph t k.succ = digitGlyph (t.digit k) := rfl

theorem showPrimary_shows (bl : BlinkMode) (h : d.Shows m b p g) : (showPrimary bl d).Shows m b p g :=
  h.congr fun w => showPrimary_read bl d b w

/-- The page itself stands in the primary buffer. -/
theorem paintSettingPage_primary (h : layoutOk m = true) (t : Setting) (d : Display) (p : Fin 6) :
    (paintSettingPage m t d).Shows m .primary p (settingGlyph t p) := by
  have page := foldl_shows (m := m) (b := .primary) (g := settingGlyph t p)
    (f := fun d p => writeGlyph m .primary p (settingGlyph t p) d) (fun _ => writeGlyph_shows h)
    (fun _ _ hq => writeGlyph_shows_other h hq) (mem_positions p) d
  exact showPrimary_shows _ (writeGlyph_shows_buffer (by decide) (blankBuffer_shows_buffer (by decide) page))

/-- The alternate buffer shows the cursor's glyph and is dark elsewhere. -/
theorem paintSettingPage_alternate (h : layoutOk m = true) (t : Setting) (d : Display) :
    (paintSettingPage m t d).Shows m .alternate t.cursor (settingGlyph t t.cursor)
      ∧ ∀ p, p ≠ t.cursor → (paintSettingPage m t d).Shows m .alternate p 0 :=
  ⟨showPrimary_shows _ (writeGlyph_shows h),
    fun p hp => showPrimary_shows _ (writeGlyph_shows_other h hp (blankBuffer_shows h _ _ p))⟩

theorem paintSettingPage_settingPage (h : layoutOk m = true) (t : Setting) (d : Display) :
    (paintSettingPage m t d).SettingPage m t := by
  obtain ⟨cursor, dark⟩ := paintSettingPage_alternate h t d
  refine ⟨paintSettingPage_primary h t d 0, fun k => paintSettingPage_primary h t d k.succ, dark, fun hc => ?_,
    fun k hc => ?_, showPrimary_controls _ _⟩
  · rw [hc, settingGlyph_zero] at cursor
    exact cursor
  · rw [hc, settingGlyph_succ] at cursor
    exact cursor

/-! ### The buttons at INPUT_ENTRY (43_input R126) -/

theorem exec_inputEntry (h : s.EntryEnabled) : exec .inputEntry s = .next (enterInput s) :=
  whenEnabled_of (s.ownStep_inputEntry.mpr h) _

theorem requests_get (s : State) (i : Input) : s.requests.get i = (s.ifg.get i && s.ie.get i) :=
  InputBits.get_both _ _ i

/-- Settles O29: outside SETTING no button acts. -/
theorem entryOutsideSettingOnlySnapshots : Obligations.EntryOutsideSettingOnlySnapshots := by
  intro s h he
  refine ⟨_, exec_inputEntry h, ?_⟩
  rw [enterInput_quiet he]
  exact ⟨rfl, requests_get s⟩

/-- In SETTING a button acts when it requests, is armed and awaits a press. -/
theorem buttonActs_inSetting (he : s.eng = .setting) (i : Input) :
    buttonActs s.requests i s = (s.ifg.get i && s.ie.get i && s.armed.get i && !s.edge.get i) := by
  rw [buttonActs, requests_get, he, decide_eq_true rfl, Bool.and_true]

/-- BTN_ADV's turn changes nothing that BTN_INC's looks at. -/
theorem buttonActs_entryAdvance (snapshot snapshot' : InputBits) (i : Input) (s : State) :
    buttonActs snapshot i (entryAdvance snapshot' s) = buttonActs snapshot i s := by
  unfold entryAdvance
  split <;> rfl

/-- From s to t a button's turn stored v as the setting, and painted it if it acted. -/
abbrev SettingTurn (acts : Bool) (v : Setting) (s t : State) : Prop :=
  t.setting = (if acts then v else s.setting)
    ∧ t.display = if acts then paintSettingPage s.params.segMap v s.display else s.display

theorem entryAdvance_turn (snapshot : InputBits) (s : State) :
    SettingTurn (buttonActs snapshot .adv s) s.setting.advance s (entryAdvance snapshot s) := by
  unfold entryAdvance SettingTurn
  split <;> exact ⟨rfl, rfl⟩

theorem entryIncrement_turn (snapshot : InputBits) (s : State) :
    SettingTurn (buttonActs snapshot .inc s) s.setting.increment s (entryIncrement snapshot s) := by
  unfold entryIncrement SettingTurn
  split <;> exact ⟨rfl, rfl⟩

theorem entryAdvance_params (snapshot : InputBits) (s : State) : (entryAdvance snapshot s).params = s.params := by
  unfold entryAdvance
  split <;> rfl

/-- A button's turn paints its setting page, or leaves what stands on the display. -/
theorem SettingTurn.settingPage {acts : Bool} {t : State} (h : SettingTurn acts v s t)
    (hm : layoutOk s.params.segMap = true) (hs : acts = true ∨ s.display.SettingPage s.params.segMap s.setting) :
    t.display.SettingPage s.params.segMap t.setting := by
  obtain ⟨setting, display⟩ := h
  rw [setting, display]
  cases acts with
  | true => exact paintSettingPage_settingPage hm v _
  | false => exact hs.resolve_left nofun

/-- The two buttons' turns, each by whether it acts. -/
theorem enterInput_turns (he : s.eng = .setting) :
    let acts := fun i : Input => s.ifg.get i && s.ie.get i && s.armed.get i && !s.edge.get i
    ∃ r, SettingTurn (acts .adv) s.setting.advance s r ∧ r.params = s.params
      ∧ SettingTurn (acts .inc) r.setting.increment r (enterInput s) := by
  have adv := entryAdvance_turn s.requests s
  have inc := entryIncrement_turn s.requests (entryAdvance s.requests s)
  rw [buttonActs_entryAdvance, buttonActs_inSetting he] at inc
  rw [buttonActs_inSetting he] at adv
  exact ⟨_, adv, entryAdvance_params _ _, inc⟩

/-- Settles O30: BTN_ADV's turn, then BTN_INC's on what it left. -/
theorem buttonsActAtEntry : Obligations.ButtonsActAtEntry := by
  intro s h he hm acts moved
  refine ⟨_, exec_inputEntry h, ?_⟩
  obtain ⟨r, adv, params, inc⟩ := enterInput_turns he
  have frame := enterInput_frame s
  have debSet : (enterInput s).debSet = s.requests := by rw [frame]
  have advanced : r.setting = moved := adv.1
  refine ⟨debSet ▸ frame, fun i => by rw [debSet, requests_get], ?setting, fun hadv hinc => ?still, fun hacts => ?page⟩
  case setting => rw [inc.1, advanced]
  case still =>
    rw [inc.2, if_neg (by simpa [acts] using hinc), adv.2, if_neg (by simpa [acts] using hadv)]
  case page =>
    rw [← params]
    refine inc.settingPage (params ▸ hm) ?_
    rcases hacts with hadv | hinc
    · rw [params]
      exact .inr (adv.settingPage hm (.inl hadv))
    · exact .inl hinc

end Sys2Proof.Machine
end

section
/-! SETTLE_DONE: what becomes of each input's bits, when nothing else changes, and what a confirmed trigger press starts
(43_input R127, R135, 41_engine R100, R106, R107). -/

namespace Sys2Proof.Machine

variable {s t : State} {i j : Input}

theorem exec_settleDone (h : s.SettleEnabled) : exec .settleDone s = .next (settleInputs s) :=
  whenEnabled_of (s.ownStep_settleDone.mpr h) _

/-! ### Each input by its own turn (43_input R127) -/

/-- From s to t the flag, the awaited edge and the arming of input i are kept. -/
abbrev SameBits (i : Input) (s t : State) : Prop :=
  t.ifg.get i = s.ifg.get i ∧ t.edge.get i = s.edge.get i ∧ t.armed.get i = s.armed.get i

theorem SameBits.trans {r : State} (h : SameBits i s t) (h' : SameBits i t r) : SameBits i s r := by
  obtain ⟨hifg, hedge, harmed⟩ := h
  obtain ⟨hifg', hedge', harmed'⟩ := h'
  exact ⟨hifg'.trans hifg, hedge'.trans hedge, harmed'.trans harmed⟩

/-- A turn keeps the bits of every other input. -/
theorem settleTurn_sameBits (s : State) (h : j ≠ i) : SameBits j s (settleTurn i s) := by
  by_cases hi : i = .trig
  · obtain ⟨hifg, hedge, harmed⟩ := settleTurn_other i s h
    exact ⟨hifg, hedge, harmed (hi ▸ h)⟩
  · exact (settleTurn_button hi s).2 j h

/-- The bits that SETTLE_DONE leaves an input are those of its own turn, taken on a state with its bits as they were. -/
theorem settleInputs_ownTurn (i : Input) (s : State) : ∃ f e a : InputBits,
    SameBits i s { s with ifg := f, edge := e, armed := a }
      ∧ SameBits i (settleTurn i { s with ifg := f, edge := e, armed := a }) (settleInputs s) := by
  cases i with
  | adv =>
    have inc := settleTurn_sameBits (settleTurn .adv s) (i := .inc) (j := .adv) nofun
    have trig := settleTurn_sameBits (settleTurn .inc (settleTurn .adv s)) (i := .trig) (j := .adv) nofun
    exact ⟨s.ifg, s.edge, s.armed, ⟨rfl, rfl, rfl⟩, inc.trans trig⟩
  | inc =>
    obtain ⟨frame, kept⟩ := settleTurn_button (i := .adv) nofun s
    have trig := settleTurn_sameBits (settleTurn .inc (settleTurn .adv s)) (i := .trig) (j := .inc) nofun
    refine ⟨_, _, _, kept .inc nofun, ?_⟩
    rw [← frame]
    exact trig
  | trig =>
    obtain ⟨f, e, a, frame, kept⟩ := settleButtons_frame s
    refine ⟨f, e, a, kept, ?_⟩
    rw [← frame]
    exact ⟨rfl, rfl, rfl⟩

/-- What the re-sample of input i from s leaves in t: nothing of an input outside the snapshot; the flag cleared, and
the edge and the arming by the edge awaited and the pin. -/
abbrev InputSettled (i : Input) (s t : State) : Prop :=
  (s.debSet.get i = false →
      t.ifg.get i = s.ifg.get i ∧ t.edge.get i = s.edge.get i ∧ t.armed.get i = s.armed.get i)
    ∧ (s.debSet.get i = true → t.ifg.get i = false)
    ∧ (s.debSet.get i = true → s.edge.get i = false → s.pin.get i = false →
      t.edge.get i = true ∧ t.armed.get i = false)
    ∧ (s.debSet.get i = true → s.edge.get i = false → s.pin.get i = true →
      t.edge.get i = false ∧ t.armed.get i = s.armed.get i)
    ∧ (s.debSet.get i = true → s.edge.get i = true → s.pin.get i = true →
      t.edge.get i = false ∧ (i = .trig ∧ s.ie.trig = false → t.armed.get i = s.armed.get i)
        ∧ (¬(i = .trig ∧ s.ie.trig = false) → t.armed.get i = true))
    ∧ (s.debSet.get i = true → s.edge.get i = true → s.pin.get i = false →
      t.edge.get i = true ∧ t.armed.get i = s.armed.get i)

/-- A confirmed press, whether or not the trigger acts. -/
theorem confirmPress_bits (i : Input) (s : State) :
    (confirmPress i s).ifg = s.ifg ∧ (confirmPress i s).edge.get i = true
      ∧ (confirmPress i s).armed.get i = false := by
  cases h : triggerActs i s with
  | false =>
    rw [confirmPress_quiet h]
    exact ⟨rfl, InputBits.get_set_same .., InputBits.get_set_same ..⟩
  | true =>
    obtain ⟨-, hifg, -⟩ := actTrigger_bits s
    rw [confirmPress_acts h]
    exact ⟨hifg, InputBits.get_set_same .., InputBits.get_set_same ..⟩

theorem settleTurn_settled (i : Input) (s : State) : InputSettled i s (settleTurn i s) := by
  unfold settleTurn
  by_cases hset : s.debSet.get i = true
  case neg => simp [InputSettled, hset]
  case pos =>
    rw [if_pos hset]
    rcases settleInput_cases i s with ⟨hedge, hpin, e⟩ | ⟨hedge, hpin, e⟩ | ⟨hne, e⟩ <;> rw [e]
    · obtain ⟨hifg, hedge', harmed⟩ := confirmPress_bits i { s with ifg := s.ifg.set i false }
      simp [InputSettled, hset, hedge, hpin, hifg, hedge', harmed]
    · rw [confirmRelease_eq]
      by_cases hdisabled : i = .trig ∧ s.ie.trig = false
      · obtain ⟨rfl, hie⟩ := hdisabled
        simp [InputSettled, hset, hedge, hpin, hie]
      · simp [InputSettled, hset, hedge, hpin, hdisabled]
    · have hpin : s.pin.get i = !s.edge.get i := Bool.eq_not.mpr hne.symm
      cases hedge : s.edge.get i <;> simp [InputSettled, hset, hedge, hpin]

theorem settleInputs_settled (i : Input) (s : State) : InputSettled i s (settleInputs s) := by
  obtain ⟨f, e, a, ⟨hifg, hedge, harmed⟩, tifg, tedge, tarmed⟩ := settleInputs_ownTurn i s
  have settled := settleTurn_settled i { s with ifg := f, edge := e, armed := a }
  simp only [InputSettled, hifg, hedge, harmed, ← tifg, ← tedge, ← tarmed] at settled
  exact settled

/-- Settles O33: the frame for the snapshot and the pins, and each input by its own turn. -/
theorem settleFlipsConfirmedInputs : Obligations.SettleFlipsConfirmedInputs := by
  intro s h
  have frame := settleInputs_frame s
  exact ⟨_, exec_settleDone h, by rw [frame], by rw [frame]; rfl, by rw [frame], fun i => settleInputs_settled i s⟩

/-! ### The trigger's action, and only it, reaches past the input bits (43_input R127) -/

theorem actTrigger_counting (s : State) : (actTrigger s).eng = .counting := by
  rcases actTrigger_engine s with ⟨-, counting, -⟩ | ⟨-, counting, -⟩
  · exact counting
  · exact counting

/-- In SETTING a confirmed trigger press starts the count. -/
theorem settleInputs_counting (hc : s.TriggerConfirmed) (he : s.eng = .setting) : (settleInputs s).eng = .counting := by
  obtain ⟨hset, hawait, hpin, harm⟩ := hc
  obtain ⟨f, e, a, hb, -, hedge, harmed⟩ := settleButtons_frame s
  have hset' : s.debSet.get .trig = true := hset
  have awaits : e.get .trig = false := hedge.trans hawait
  have pressed : s.pin.get .trig = false := hpin
  unfold settleInputs
  rw [hb, settleTurn, if_pos hset']
  rcases settleInput_cases .trig { s with ifg := f, edge := e, armed := a } with ⟨-, -, h⟩ | ⟨hrel, -⟩ | ⟨hne, -⟩
  · have acts : triggerActs .trig { s with ifg := f.set .trig false, edge := e, armed := a } = true :=
      (triggerActs_iff _ _).mpr ⟨rfl, harmed.trans harm, he⟩
    rw [h, confirmPress_acts acts]
    exact actTrigger_counting _
  · exact absurd (awaits.symm.trans hrel) nofun
  · exact absurd (awaits.trans pressed.symm) hne

/-- A confirmed trigger press in SETTING: the trigger's action, and the input bits. -/
theorem settleInputs_confirmed (hc : s.TriggerConfirmed) (he : s.eng = .setting) :
    ∃ f e a, settleInputs s = { actTrigger { s with debActive := false } with
      ifg := f, edge := e, armed := a, debSet := InputBits.zero } := by
  rcases settleInputs_cases s with ⟨f, e, a, h⟩ | ⟨-, acted⟩
  · have counting := settleInputs_counting hc he
    rw [h] at counting
    exact absurd (he.symm.trans counting) nofun
  · exact acted

/-- Settles O34: the trigger's action would move the engine, which only its confirmed press in SETTING does. -/
theorem settleWithoutTriggerIsQuiet : Obligations.SettleWithoutTriggerIsQuiet := by
  intro s h hquiet
  refine ⟨_, exec_settleDone h, ?_⟩
  rcases settleInputs_cases s with ⟨f, e, a, hs⟩ | ⟨he, f, e, a, hs⟩
  · rw [hs]
  · have counting : (settleInputs s).eng = .counting := by
      rw [hs]
      exact actTrigger_counting _
    have moved : (settleInputs s).eng ≠ s.eng := by rw [counting, he]; nofun
    obtain ⟨hset, hedge, hpin, harm⟩ := triggerConfirmed_of_settleInputs moved
    exact absurd ⟨hset, hedge, hpin, harm, he⟩ hquiet

/-! ### The commit (41_engine R100, R107) -/

theorem actTrigger_commit (h : s.params.config = .countdownUnlock) : actTrigger s = commit s := by
  rw [actTrigger, h]

theorem Setting.digit_lt (v : Setting) (k : Fin 5) : v.digit k < 16 := (v.dig.get k).isLt

/-- The longest duration that the digits can hold fits DAYS. -/
theorem Setting.seconds_lt (v : Setting) : v.seconds < 86400 * 2 ^ 32 := by
  have unit : v.unit.inSeconds ≤ 31556926 := by cases v.unit <;> decide
  have value : v.value ≤ 166665 := by
    have d0 := v.digit_lt 0
    have d1 := v.digit_lt 1
    have d2 := v.digit_lt 2
    have d3 := v.digit_lt 3
    have d4 := v.digit_lt 4
    rw [Setting.value]
    omega
  exact Nat.lt_of_le_of_lt (Nat.mul_le_mul value unit) (by decide)

/-- A commit counts exactly the set duration. -/
theorem commit_time (s : State) : (commit s).totalSeconds = s.setting.seconds ∧ (commit s).TimeLegal := by
  rw [commit_eq]
  exact setDuration_time s s.setting.seconds_lt

/-- The set-up of COUNTING shows the time in the primary buffer, and leaves the alternate one dark. -/
theorem countingDisplay_shows {m : SegMap} (h : layoutOk m = true) {sec min hr : Nat} (hs : sec ≤ 59) (hm : min ≤ 59)
    (hh : hr ≤ 23) (d : Display) :
    (countingDisplay (cacheWords m) sec min hr m d).TimePage m sec min hr
      ∧ (∀ p : Fin 6, (countingDisplay (cacheWords m) sec min hr m d).Shows m .alternate p 0)
      ∧ (countingDisplay (cacheWords m) sec min hr m d).Controls .primary .none true :=
  ⟨(countingDisplay_holdsTime h).timePage h (Nat.lt_succ_of_le hs) (Nat.lt_succ_of_le hm) (Nat.lt_succ_of_le hh),
    blankBuffer_shows h _ _, countingDisplay_controls _ _ _ _ _ _⟩

/-- A commit shows the time it starts from. -/
theorem commit_display (hm : layoutOk s.params.segMap = true) (hc : s.cache = cacheWords s.params.segMap) :
    (commit s).display.TimePage s.params.segMap (commit s).sec.toNat (commit s).min.toNat (commit s).hr.toNat
      ∧ (∀ p : Fin 6, (commit s).display.Shows s.params.segMap .alternate p 0)
      ∧ (commit s).display.Controls .primary .none true := by
  obtain ⟨hsec, hmin, hhr⟩ := (commit_time s).2
  have display : (commit s).display = countingDisplay s.cache (commit s).sec.toNat (commit s).min.toNat
      (commit s).hr.toNat s.params.segMap s.display := by rw [commit_eq]
  rw [display, hc]
  exact countingDisplay_shows hm hsec hmin hhr s.display

/-- Settles O35: the commit's registers, its time and its display. -/
theorem commitSetsTheDuration : Obligations.CommitSetsTheDuration := by
  intro s h hset hedge hpin harm he hconfig hm hcache dig value
  obtain ⟨huq, -⟩ := id h
  obtain ⟨f, e, a, hs⟩ := settleInputs_confirmed ⟨hset, hedge, hpin, harm⟩ he
  refine ⟨_, exec_settleDone h, ?_⟩
  rw [hs, actTrigger_commit (s := { s with debActive := false }) hconfig]
  have frame := commit_eq { s with debActive := false }
  obtain ⟨time, legal⟩ := commit_time { s with debActive := false }
  have display := commit_display (s := { s with debActive := false }) hm hcache
  have duration {n : Nat} (hn : s.setting.unit.inSeconds = n) :
      (commit { s with debActive := false }).totalSeconds = s.setting.value * n := hn ▸ time
  refine ⟨?frame, legal, time, fun hu => ?_, fun hu => duration (by rw [hu]; rfl), fun hu => duration (by rw [hu]; rfl),
    fun hu => duration (by rw [hu]; rfl), display⟩
  case frame =>
    rw [frame]
    simp only [huq, List.nil_append, eventRtcReset]
  · exact (duration (by rw [hu]; rfl)).trans (Nat.mul_one _)

/-! ### The launch (41_engine R106, R107) -/

theorem actTrigger_launch (h : s.params.config = .elapsedSinceLaunch) : actTrigger s = launch s := by
  rw [actTrigger, h]

/-- A launch shows the zero time and day zero. -/
theorem launch_display (hm : layoutOk s.params.segMap = true) (hc : s.cache = cacheWords s.params.segMap) :
    (launch s).display.TimePage s.params.segMap 0 0 0 ∧ (launch s).display.DayPage s.params.segMap 0
      ∧ (launch s).display.Controls .primary .none true := by
  have display : (launch s).display =
      paintDayPage s.params.segMap 0 (countingDisplay s.cache 0 0 0 s.params.segMap s.display) := by rw [launch_eq]
  rw [display, hc]
  have zero := countingDisplay_holdsTime hm (c := cacheWords s.params.segMap) (sec := 0) (min := 0) (hr := 0)
    (d := s.display)
  have painted := zero.congr (d' := paintDayPage s.params.segMap 0 _) fun w => paintDayPage_read_primary _ _ _ w
  exact ⟨painted.timePage hm (by decide) (by decide) (by decide), paintDayPage_dayPage hm 0 _,
    paintDayPage_controls 0 (countingDisplay_controls _ _ _ _ _ _)⟩

/-- Settles O36: the launch's registers, its queue and its display, and the trigger's bits by its own turn. -/
theorem launchIsOneShot : Obligations.LaunchIsOneShot := by
  intro s h hset hedge hpin harm he hconfig hm hcache
  obtain ⟨huq, -⟩ := id h
  obtain ⟨f, e, a, hs⟩ := settleInputs_confirmed ⟨hset, hedge, hpin, harm⟩ he
  obtain ⟨-, -, press, -⟩ := settleInputs_settled .trig s
  obtain ⟨-, unarmed⟩ := press hset hedge hpin
  have display := launch_display (s := { s with debActive := false }) hm hcache
  refine ⟨_, exec_settleDone h, ?_, unarmed, ?_⟩
  all_goals
    rw [hs, actTrigger_launch (s := { s with debActive := false }) hconfig]
  · rw [launch_eq]
    rfl
  · refine ⟨?_, display⟩
    rw [launch_eq]
    simp only [huq, List.nil_append, stampWords, eventRtcReset]

end Sys2Proof.Machine
end

section
/-! Bounces inside the settle time: a whole bounce leaves a flag that SETTLE_DONE clears (43_input R129). -/

namespace Sys2Proof.Machine

variable {s t : State} {i : Input}

/-! ### Runs of labels (30_encoding R71) -/

theorem execAll_append {is js : List Instr} (h : execAll is s = .next t) : execAll (is ++ js) s = execAll js t := by
  induction is generalizing s with
  | nil =>
    cases h
    rfl
  | cons x is ih =>
    simp only [execAll, List.cons_append] at h ⊢
    cases hx : exec x s with
    | next r => rw [hx] at h; exact ih h
    | fault r => rw [hx] at h; cases h
    | refused r => rw [hx] at h; cases h

theorem execAll_singleton (x : Instr) (s : State) : execAll [x] s = exec x s := by
  simp only [execAll]
  cases exec x s <;> rfl

theorem exec_pinChange {lvl : Bool} (h : s.pin.get i ≠ lvl) : exec (.pinChange i lvl) s = .next (changePin i lvl s) :=
  if_neg h

/-! ### One bounce (60_exceptions R145) -/

theorem InputBits.set_set_same (b : InputBits) (i : Input) (v w : Bool) : (b.set i v).set i w = b.set i w := by
  cases i <;> rfl

theorem InputBits.set_get_self (b : InputBits) (i : Input) : b.set i (b.get i) = b := by cases i <;> rfl

/-- The level the awaited edge leads to is left without a request, and reached again with one. -/
theorem awaitedEdge_bounce (e : Bool) : awaitedEdge e e (!e) = false ∧ awaitedEdge e (!e) e = true := by
  cases e <;> exact ⟨rfl, rfl⟩

/-- The first half of a bounce moves the pin only. -/
theorem changePin_away (h : s.pin.get i = s.edge.get i) :
    changePin i (!s.edge.get i) s = { s with pin := s.pin.set i (!s.edge.get i) } := by
  rw [changePin, h, (awaitedEdge_bounce _).1]
  rfl

/-- A whole bounce sets the flag. -/
theorem execAll_bounce (h : s.pin.get i = s.edge.get i) (is : List Instr) :
    execAll (.pinChange i (!s.edge.get i) :: .pinChange i (s.edge.get i) :: is) s =
      execAll is { s with ifg := s.ifg.set i true } := by
  have away : s.pin.get i ≠ !s.edge.get i := by rw [h]; exact Bool.self_ne_not _
  have back : (s.pin.set i (!s.edge.get i)).get i ≠ s.edge.get i := by
    rw [InputBits.get_set_same]
    exact Bool.not_ne_self _
  have pin : (s.pin.set i (!s.edge.get i)).set i (s.edge.get i) = s.pin := by
    rw [InputBits.set_set_same, ← h, InputBits.set_get_self]
  rw [execAll, exec_pinChange away, changePin_away h]
  simp only [execAll]
  rw [exec_pinChange back]
  simp only [changePin, InputBits.get_set_same, (awaitedEdge_bounce _).2, if_true, pin]

/-- Any number of bounces leaves the state as it was but for the input's flag. -/
theorem execAll_bounces (n : Nat) (h : s.pin.get i = s.edge.get i) :
    ∃ f : InputBits, (∀ j, j ≠ i → f.get j = s.ifg.get j)
      ∧ execAll (bounces i (s.edge.get i) n) s = .next { s with ifg := f } := by
  induction n generalizing s with
  | zero => exact ⟨s.ifg, fun _ _ => rfl, rfl⟩
  | succ n ih =>
    obtain ⟨f, others, run⟩ := ih (s := { s with ifg := s.ifg.set i true }) h
    refine ⟨f, fun j hj => (others j hj).trans (InputBits.get_set_other _ _ hj), ?_⟩
    rw [bounces, execAll_bounce h]
    exact run

/-! ### What SETTLE_DONE makes of the flags (43_input R127) -/

/-- The interrupt flags are no input of SETTLE_DONE but for themselves. -/
theorem settleInputs_ifg_frame (s : State) (f : InputBits) :
    ∃ f', settleInputs { s with ifg := f } = { settleInputs s with ifg := f' } := by
  unfold settleInputs
  rw [settleTurn_ifg .adv s f, settleTurn_ifg .inc (settleTurn .adv s),
    settleTurn_ifg .trig (settleTurn .inc (settleTurn .adv s))]
  exact ⟨_, rfl⟩

/-- Flags that differ in the snapshot only are the same to SETTLE_DONE, which clears those. -/
theorem settleInputs_ifg {f : InputBits} (h : ∀ i, s.debSet.get i = false → f.get i = s.ifg.get i) :
    settleInputs { s with ifg := f } = settleInputs s := by
  obtain ⟨f', e⟩ := settleInputs_ifg_frame s f
  have flags : f' = (settleInputs s).ifg := by
    refine InputBits.ext_get fun i => ?_
    obtain ⟨kept, cleared, -⟩ := settleInputs_settled i s
    obtain ⟨kept', cleared', -⟩ := settleInputs_settled i { s with ifg := f }
    rw [e] at kept' cleared'
    cases hset : s.debSet.get i with
    | true => exact (cleared' hset).trans (cleared hset).symm
    | false =>
      calc f'.get i
        _ = f.get i := (kept' hset).1
        _ = s.ifg.get i := h i hset
        _ = (settleInputs s).ifg.get i := (kept hset).1.symm
  rw [e, flags]

/-! ### Bounces do not count (43_input R129) -/

/-- While a settle is pending INPUT_ENTRY is not enabled (60_exceptions R147). -/
theorem exec_inputEntry_settling (h : s.SettleEnabled) : exec .inputEntry s = .fault .stepNotEnabled :=
  if_neg (c := s.ownStep = some .inputEntry) (by rw [s.ownStep_settleDone.mpr h]; decide)

/-- Settles O37: the bounces leave a flag of the snapshot at most, and the settle pending. -/
theorem bouncesDoNotCount : Obligations.BouncesDoNotCount := by
  intro i n s h hset hpin
  obtain ⟨f, others, run⟩ := execAll_bounces n hpin
  have outside (j : Input) (hj : s.debSet.get j = false) : f.get j = s.ifg.get j :=
    others j fun e => by rw [e, hset] at hj; cases hj
  refine ⟨?same, ⟨_, run, exec_inputEntry_settling h⟩,
    ⟨changePin i (!s.edge.get i) { s with ifg := f }, ?half, exec_inputEntry_settling h⟩⟩
  case same =>
    rw [execAll_append run, execAll_singleton, exec_settleDone h, ← settleInputs_ifg outside]
    exact exec_settleDone (s := { s with ifg := f }) h
  case half =>
    have away : s.pin.get i ≠ !s.edge.get i := by rw [hpin]; exact Bool.self_ne_not _
    rw [execAll_append run, execAll_singleton]
    exact exec_pinChange (s := { s with ifg := f }) away

end Sys2Proof.Machine
end

section
/-! A word on the command port: it runs as a command, is rejected with reason 1, or waits (44_host R136, 30_encoding
R68). -/

namespace Sys2Proof.Machine

variable {s : State} {w : Label} {i : Instr} {rest : List Offer}

theorem nextAction_port (h : s.offers = .port w :: rest) : nextAction s = portAction w s := by
  rw [nextAction, h]

/-- The port takes exactly the words that decode to a command. -/
theorem decodeCommand_eq_some_iff : decodeCommand w = some i ↔ decode w = .ok i ∧ i.labelClass = .command := by
  constructor
  · intro h
    unfold decodeCommand at h
    split at h
    case isTrue hc =>
      cases hd : decode w with
      | ok j =>
        rw [hd] at h
        cases h
        exact ⟨rfl, (decode_command_iff hd).mpr hc⟩
      | error e => rw [hd] at h; cases h
    case isFalse => cases h
  · rintro ⟨hd, hi⟩
    exact decodeCommand_some hd ((decode_command_iff hd).mp hi)

theorem decodeCommand_eq_none (h : ¬∃ i, decode w = .ok i ∧ i.labelClass = .command) : decodeCommand w = none :=
  Option.eq_none_iff_forall_ne_some.mpr fun i hi => h ⟨i, decodeCommand_eq_some_iff.mp hi⟩

/-- Settles O6: with the port ready the word runs as the command it decodes to, or is rejected; otherwise the block
has a step of its own. -/
theorem commandPortRunsOrRejects : Obligations.CommandPortRunsOrRejects := by
  intro s w rest h
  have port := nextAction_port h
  refine ⟨fun hr i hd hi => ?runs, fun hr hd => ?rejected, step_port_waits port⟩
  case runs => rw [step_port_runs port hr (decodeCommand_eq_some_iff.mpr ⟨hd, hi⟩), takeOffer_of h]
  case rejected =>
    rw [step_port_rejects port hr (decodeCommand_eq_none hd), takeOffer_of h]
    rfl

end Sys2Proof.Machine
end

section
/-! The host commands: what each does in its legal states, and its refusal elsewhere (44_host R137 to R142). -/

namespace Sys2Proof.Machine

variable {s : State} {m : SegMap}

/-! ### A command with the port ready (44_host R136) -/

theorem exec_boot (h : s.CommandEnabled) (p : Stamp) : exec (.boot p) s = .next (hostBoot p s) :=
  whenHostReady_of h _

theorem exec_unlockDone (h : s.CommandEnabled) : exec .unlockDone s = .next (hostUnlockDone s) :=
  whenHostReady_of h _

theorem exec_commission (h : s.CommandEnabled) (p : Stamp) : exec (.commission p) s = .next (hostCommission p s) :=
  whenHostReady_of h _

/-- Settles O16: the command is one write, whatever ENG_STATE holds. -/
theorem setTsLatchWritesTheLatch : Obligations.SetTsLatchWritesTheLatch := fun _ _ h => whenHostReady_of h _

/-- Settles O17: the command is its four clears, whatever ENG_STATE holds. -/
theorem clearStatusClearsStickyFlags : Obligations.ClearStatusClearsStickyFlags := fun _ h => whenHostReady_of h _

/-! ### UNLOCK_DONE (44_host R138) -/

theorem hostUnlockDone_refused (he : s.eng ≠ .unlocking) : hostUnlockDone s = s.reject reasonIllegal := if_neg he

theorem hostUnlockDone_unlocking (he : s.eng = .unlocking) : hostUnlockDone s = enterSetting s := if_pos he

/-- Settles O14: it is the entry to SETTING, whose painter reads the kept setting. -/
theorem unlockDoneReturnsToSetting : Obligations.UnlockDoneReturnsToSetting := by
  intro s h he hm
  refine ⟨_, exec_unlockDone h, ?_⟩
  rw [hostUnlockDone_unlocking he, enterSetting_eq]
  exact ⟨rfl, paintSettingPage_settingPage hm _ _⟩

/-! ### COMMISSION (44_host R139) -/

theorem commissionLegal_iff (e : EngState) :
    commissionLegal e = true ↔ e = .setting ∨ e = .counting ∨ e = .unlocking := by
  cases e <;> simp [commissionLegal]

theorem commissionLegal_false_iff (e : EngState) :
    commissionLegal e = false ↔ e = .idle ∨ e = .terminal ∨ e = .error := by
  cases e <;> simp [commissionLegal]

theorem hostCommission_commissioned (he : commissionLegal s.eng = true) (hc : s.dur.flagSet .cflag = true)
    (p : Stamp) : hostCommission p s = s.reject reasonCommissioned := by
  rw [hostCommission, if_pos he, if_pos hc]

theorem hostCommission_uncommissioned (he : commissionLegal s.eng = true) (hc : s.dur.flagSet .cflag = false)
    (p : Stamp) : hostCommission p s = { s with
      uq := s.uq ++ s.dur.recordUops .cts (stampWords p) ++ s.dur.recordUops .cflag [1] } := by
  rw [hostCommission, if_pos he, hc, if_neg Bool.false_ne_true]
  rfl

/-- Settles O15: with the port ready UQ is empty, so the two records' writes are all that is queued. -/
theorem commissionQueuesBothRecords : Obligations.CommissionQueuesBothRecords := by
  intro p s h he
  have legal := (commissionLegal_iff s.eng).mpr he
  have ⟨⟨hempty, _⟩, _⟩ := h
  refine ⟨fun hc => ?queued, fun hc => ?refused⟩
  case queued => rw [exec_commission h, hostCommission_uncommissioned legal hc, hempty, List.nil_append, stampWords]
  case refused =>
    rw [exec_commission h, hostCommission_commissioned legal hc]
    rfl

/-! ### BOOT (44_host R137) -/

theorem hostBoot_refused (he : s.eng ≠ .idle) (p : Stamp) : hostBoot p s = s.reject reasonIllegal := if_neg he

theorem hostBoot_badLayout (he : s.eng = .idle) (hm : layoutOk s.params.segMap = false) (p : Stamp) :
    hostBoot p s = enterError (bootDisplay s) errorLayout := by
  simpa [he, hm] using hostBoot_cases p s

theorem hostBoot_unlaunched (he : s.eng = .idle) (hm : layoutOk s.params.segMap = true)
    (hl : ¬(s.params.config = .elapsedSinceLaunch ∧ s.dur.flagSet .lflag = true)) (p : Stamp) :
    hostBoot p s = enterSetting (bootReady s) := by
  simpa [he, hm, hl] using hostBoot_cases p s

theorem hostBoot_launched (he : s.eng = .idle) (hm : layoutOk s.params.segMap = true)
    (hl : s.params.config = .elapsedSinceLaunch ∧ s.dur.flagSet .lflag = true) (p : Stamp) :
    hostBoot p s = bootRestore p (disableTrigger (bootReady s)) := by
  simpa [he, hm, hl] using hostBoot_cases p s

theorem bootRestore_badClock {p : Stamp} (hp : validTs p = false) (s : State) :
    bootRestore p s = enterError s errorClock := by
  simpa [hp] using bootRestore_cases p s

/-- What BOOT leaves of the display before it paints a page. -/
theorem bootCleared_onlySegments (m : SegMap) (d : Display) : (showPrimary .none (hwClear d)).OnlySegments m :=
  showPrimary_onlySegments _ (hwClear_onlySegments m d)

/-- Settles O9: the entry to SETTING from BOOT's prepared state, whose display is clear. -/
theorem bootEntersSetting : Obligations.BootEntersSetting := by
  intro p s h he hm hl
  refine ⟨_, exec_boot h p, ?_⟩
  rw [hostBoot_unlaunched he hm hl, enterSetting_eq, bootReady_eq hm]
  exact ⟨rfl, rfl, paintSettingPage_settingPage hm _ _,
    paintSettingPage_onlySegments _ (bootCleared_onlySegments _ _)⟩

/-- Settles O10: the painter keeps to segment bits under any map, and ends with the control writes. -/
theorem bootOfABadLayoutIsErrorOne : Obligations.BootOfABadLayoutIsErrorOne := by
  intro p s h he hm
  refine ⟨_, exec_boot h p, ?_⟩
  rw [hostBoot_badLayout he hm, enterError_eq]
  exact ⟨rfl, showPrimary_controls _ _, paintError_onlySegments _ (bootCleared_onlySegments _ _)⟩

/-- The error page position by position, on a dark alternate buffer (40_display R94). -/
theorem paintError_errorPage (h : layoutOk m = true) (code : Nat) (d : Display) :
    (paintError m code d).ErrorPage m code := by
  have page (p : Fin 6) : (paintError m code d).Shows m .primary p (errorGlyph code p) := by
    have painted := foldl_shows (m := m) (b := .primary) (g := errorGlyph code p)
      (f := fun d p => writeGlyph m .primary p (errorGlyph code p) d) (fun _ => writeGlyph_shows h)
      (fun _ _ hq => writeGlyph_shows_other h hq) (List.mem_reverse.mpr (mem_positions p)) d
    exact showPrimary_shows _ (blankBuffer_shows_buffer (by decide) painted)
  exact ⟨page 5, page 4, page 3, page 2, page 1, page 0,
    fun p => showPrimary_shows _ (blankBuffer_shows h _ _ p), showPrimary_controls _ _⟩

/-- Settles O11: the restore of a launched device stops at the date, on BOOT's prepared state with the trigger off. -/
theorem bootOfABadClockIsErrorTwo : Obligations.BootOfABadClockIsErrorTwo := by
  intro p s h he hm hconfig hflag hp
  refine ⟨_, exec_boot h p, ?_⟩
  rw [hostBoot_launched he hm ⟨hconfig, hflag⟩, bootRestore_badClock hp, enterError_eq, disableTrigger_bootReady_eq hm]
  exact ⟨rfl, rfl, paintError_errorPage hm _ _, paintError_onlySegments _ (bootCleared_onlySegments _ _)⟩

/-! ### The table of legal states (44_host R142) -/

/-- A BOOT in IDLE refuses nothing, however it ends. -/
theorem hostBoot_rejectReason (he : s.eng = .idle) (p : Stamp) : (hostBoot p s).rejectReason = s.rejectReason := by
  rcases hostBoot_cases p s with ⟨hne, -⟩ | ⟨-, -, e⟩ | ⟨-, hm, -, e⟩ | ⟨-, hm, -, e⟩
  · exact absurd he hne
  · rw [e, enterError_eq]; rfl
  · rw [e, enterSetting_eq, bootReady_eq hm]
  · rw [e, bootRestore_frame, disableTrigger_bootReady_eq hm]

/-- A COMMISSION in a legal state is refused with reason 3 or not at all. -/
theorem hostCommission_rejectReason (he : commissionLegal s.eng = true) (p : Stamp) :
    (hostCommission p s).rejectReason = reasonCommissioned ∨ (hostCommission p s).rejectReason = s.rejectReason := by
  cases hc : s.dur.flagSet .cflag with
  | true => rw [hostCommission_commissioned he hc]; exact .inl rfl
  | false => rw [hostCommission_uncommissioned he hc]; exact .inr rfl

/-- Settles O13, command by command: refused in the states the table leaves out, and no reason 2 in the others. -/
theorem commandsAreLegalPerTheTable : Obligations.CommandsAreLegalPerTheTable := by
  intro p s h rejected accepted
  refine ⟨fun he => ?bootRefused, fun he => ?boot, fun he => ?unlockRefused, fun he => ?unlock,
    fun he => ?commissionRefused, fun he => ?commission, ?latch, ?clear⟩
  case bootRefused => rw [exec_boot h, hostBoot_refused he]; rfl
  case boot => exact ⟨_, exec_boot h p, (hostBoot_rejectReason he p).symm.trans⟩
  case unlockRefused => rw [exec_unlockDone h, hostUnlockDone_refused he]; rfl
  case unlock =>
    refine ⟨_, exec_unlockDone h, ?_⟩
    rw [hostUnlockDone_unlocking he, enterSetting_eq]
    exact id
  case commissionRefused =>
    rw [exec_commission h, hostCommission_illegal ((commissionLegal_false_iff s.eng).mpr he)]
    rfl
  case commission =>
    refine ⟨_, exec_commission h p, fun illegal => ?_⟩
    rcases hostCommission_rejectReason ((commissionLegal_iff s.eng).mpr he) p with e | e
    · exact absurd (e.symm.trans illegal) (by decide)
    · exact e.symm.trans illegal
  case latch => exact ⟨_, setTsLatchWritesTheLatch p s h, id⟩
  case clear =>
    refine ⟨_, clearStatusClearsStickyFlags s h, fun illegal => ?_⟩
    exact absurd (show (0 : BitVec 2) = 2 from illegal) (by decide)

end Sys2Proof.Machine
end

section
/-! What a step boundary lets run: with nothing offered the block's own next step, and a stop for every step and command
that is not enabled there (60_exceptions R147, R150, R160). -/

namespace Sys2Proof.Machine

variable {s : State} {k : InternalStep}

/-! ### With nothing offered (60_exceptions R147, R160) -/

theorem step_own (h : s.offers = []) (hk : s.ownStep = some k) : step s = exec k.toInstr s := by
  rw [step, nextAction, h]
  simp only [ownAction, hk]

theorem step_sleeps (h : s.offers = []) (hr : s.CommandEnabled) : step s = .next s := by
  rw [step, nextAction, h]
  simp only [ownAction, (State.ownStep_none s).mpr hr]

/-- Settles O7: each step's enabling is the block's own choice of it, and the port's is that there is none. -/
theorem ownStepFollowsThePriority : Obligations.OwnStepFollowsThePriority := fun s h =>
  ⟨fun hq => step_own (k := .uopStep) h (s.ownStep_uopStep.mpr hq),
    fun hs => step_own (k := .settleDone) h (s.ownStep_settleDone.mpr hs),
    fun ht => step_own (k := .tickDispatch) h (s.ownStep_tickDispatch.mpr ht),
    fun he => step_own (k := .inputEntry) h (s.ownStep_inputEntry.mpr he),
    step_sleeps h⟩

/-! ### Where a step is not enabled (60_exceptions R147, R150, log 10) -/

/-- An internal step that is not the block's own next one stops. -/
theorem exec_internal_disabled (h : s.ownStep ≠ some k) : exec k.toInstr s = .fault .stepNotEnabled := by
  cases k with
  | tickDispatch => exact if_neg h
  | inputEntry => exact if_neg h
  | settleDone => exact if_neg h
  | uopStep => exact execUopStep_empty (not_not.mp (mt s.ownStep_uopStep.mpr h))

theorem whenHostReady_waits (h : ¬s.CommandEnabled) (r : Result) : whenHostReady s r = .fault .commandPortNotReady :=
  if_neg (mt (State.hostReady_iff s).mp h)

/-- Every command goes through the port, so each stops while the port is not ready. -/
theorem exec_command_waits (h : ¬s.CommandEnabled) {i : Instr} (hi : i.labelClass = .command) :
    exec i s = .fault .commandPortNotReady := by
  cases i with
  | boot p => exact whenHostReady_waits h _
  | unlockDone => exact whenHostReady_waits h _
  | commission p => exact whenHostReady_waits h _
  | setTsLatch p => exact whenHostReady_waits h _
  | clearStatus => exact whenHostReady_waits h _
  | tickEdge | pinChange | powerLoss | tickDispatch | inputEntry | settleDone | uopStep | dww | wpu | wpl | emit =>
    cases hi

theorem not_quiescent (h : s.uq ≠ [] ∨ s.debActive = true) : ¬s.Quiescent := by
  rintro ⟨hq, hd⟩
  rcases h with h | h
  · exact h hq
  · exact Bool.false_ne_true (hd.symm.trans h)

/-- Settles O8: unfinished work leaves no state quiescent, and the three enablings ask for that. -/
theorem handlersNeverNest : Obligations.HandlersNeverNest := by
  intro s
  have tick (h : ¬s.TickEnabled) : exec .tickDispatch s = .fault .stepNotEnabled :=
    exec_internal_disabled (k := .tickDispatch) (mt s.ownStep_tickDispatch.mp h)
  have entry (h : ¬s.EntryEnabled) : exec .inputEntry s = .fault .stepNotEnabled :=
    exec_internal_disabled (k := .inputEntry) (mt s.ownStep_inputEntry.mp h)
  have settle (h : ¬s.SettleEnabled) : exec .settleDone s = .fault .stepNotEnabled :=
    exec_internal_disabled (k := .settleDone) (mt s.ownStep_settleDone.mp h)
  refine ⟨fun h => ?busy, execUopStep_empty, settle, tick, entry, fun h _ => exec_command_waits h⟩
  case busy =>
    have unfinished := not_quiescent h
    exact ⟨tick fun e => unfinished e.1, entry fun e => unfinished e.1,
      fun _ => exec_command_waits fun e => unfinished e.1⟩

end Sys2Proof.Machine
end

section
/-! The environment's events: TICK_EDGE, PIN_CHANGE and POWER_LOSS (60_exceptions R144 to R146). -/

namespace Sys2Proof.Machine

variable {s : State} {i : Input} {lvl : Bool}

/-! ### TICK_EDGE (60_exceptions R144) -/

theorem exec_tickEdge (s : State) :
    exec .tickEdge s = .next { s with tickLost := s.tickLost || s.tickIfg, tickIfg := true } := rfl

/-- Settles O18: an edge that finds the flag set adds the lost mark, and one that does not only sets the flag. -/
theorem tickEdgeSetsTheFlag : Obligations.TickEdgeSetsTheFlag := by
  intro s
  refine ⟨fun idle => ?first, fun pending => ?lost⟩
  case first => rw [exec_tickEdge, idle, Bool.or_false]
  case lost => rw [exec_tickEdge, pending, Bool.or_true, ← pending]

/-! ### PIN_CHANGE (60_exceptions R145) -/

/-- A change of level is the awaited one exactly when it ends at the level that EDGE names. -/
theorem awaitedEdge_iff {edge old lvl : Bool} (h : old ≠ lvl) : awaitedEdge edge old lvl = true ↔ edge = lvl := by
  obtain rfl : old = !lvl := Bool.eq_not.mpr h
  cases lvl <;> simp [awaitedEdge]

theorem exec_pinChange_unchanged (h : s.pin.get i = lvl) :
    exec (.pinChange i lvl) s = .fault .pinLevelUnchanged := if_pos h

theorem changePin_awaited (h : s.pin.get i ≠ lvl) (he : s.edge.get i = lvl) :
    changePin i lvl s = { s with pin := s.pin.set i lvl, ifg := s.ifg.set i true } := by
  rw [changePin, if_pos ((awaitedEdge_iff h).mpr he)]

theorem changePin_unawaited (h : s.pin.get i ≠ lvl) (he : s.edge.get i ≠ lvl) :
    changePin i lvl s = { s with pin := s.pin.set i lvl } := by
  rw [changePin, if_neg (mt (awaitedEdge_iff h).mp he)]

/-- Settles O19: a change of level reaches the pin, and the flag when EDGE awaits it. -/
theorem pinChangeLatchesTheAwaitedEdge : Obligations.PinChangeLatchesTheAwaitedEdge := by
  intro i lvl s
  refine ⟨exec_pinChange_unchanged, fun h => ⟨changePin i lvl s, exec_pinChange h, ?_⟩⟩
  by_cases he : s.edge.get i = lvl
  case pos =>
    rw [changePin_awaited h he]
    exact ⟨rfl, InputBits.get_set_same .., fun j hj => ⟨InputBits.get_set_other _ _ hj, InputBits.get_set_other _ _ hj⟩,
      fun _ => InputBits.get_set_same .., absurd he⟩
  case neg =>
    rw [changePin_unawaited h he]
    exact ⟨rfl, InputBits.get_set_same .., fun j hj => ⟨InputBits.get_set_other _ _ hj, rfl⟩,
      fun e => absurd e he, fun _ => rfl⟩

/-! ### POWER_LOSS (60_exceptions R146) -/

theorem exec_powerLoss (s : State) : exec .powerLoss s = .next (powerCycle s) := rfl

theorem Display.powerUp_controls (n : Nat) : (Display.powerUp n).Controls .primary .none false := ⟨rfl, rfl, rfl⟩

/-- Settles O20: the power cycle is the reset state with what outlives the power put back. -/
theorem powerLossResetsVolatileState : Obligations.PowerLossResetsVolatileState := fun s =>
  ⟨powerCycle s, exec_powerLoss s, rfl, Display.powerUp_controls s.powerUps⟩

end Sys2Proof.Machine
end
